-- ==== Sys2Proof/Word.lean ====
section
/-! DEFINITION. The word types of the block: the byte of the DRBG's strings, the 32-bit word of the host
register space and of the command register, and the 256-bit content of an operand register. -/

namespace Sys2Proof

/-- One byte of a byte string (00_scope.md R11, R14). -/
abbrev Byte := BitVec 8

/-- One 32-bit word: a command word, or a word of the host register space (30_encoding.md R110, 20_memory.md R81). -/
abbrev Word := BitVec 32

/-- The raw 256 bits of a scalar, field or coordinate register (10_state.md R31, R32, R35 to R37). -/
abbrev U256 := BitVec 256

end Sys2Proof
end

