-- ==== Sys2Proof/Config.lean ====
section
/-! DEFINITION. The parameters of the block (00_scope.md R5 to R10, R14) and the free value of a VT command's
`leak`. A parameter the spec gives a default for stands at that default; a parameter the spec leaves OPEN is a
constant with no body, so that no proof can see a value of it. -/

namespace Sys2Proof.Config

/-- The field prime `p = 2^256 - 2^32 - 977` (00_scope.md R9; log 4). -/
def p : Nat := 0xFFFFFFFFFFFFFFFFFFFFFFFFFFFFFFFFFFFFFFFFFFFFFFFFFFFFFFFEFFFFFC2F

/-- The group order `n` (00_scope.md R9; log 4). -/
def n : Nat := 0xFFFFFFFFFFFFFFFFFFFFFFFFFFFFFFFEBAAEDCE6AF48A03BBFD25E8CD0364141

/-- The constant of the curve equation `y² = x³ + b` (00_scope.md R9; log 4). -/
def b : Nat := 7

/-- The x-coordinate of the base point `G` (00_scope.md R9; log 4). -/
def gx : Nat := 0x79BE667EF9DCBBAC55A06295CE870B07029BFCDB2DCE28D959F2815B16F81798

/-- The y-coordinate of the base point `G` (00_scope.md R9; log 4). -/
def gy : Nat := 0x483ADA7726A3C4655DA4FBFC0E1108A8FD17B448A68554199C47D08FFB10D4B8

/-- The x-coordinate of the auxiliary point `U_AUX` (44_generator.md R262; log 5). -/
def uAuxX : Nat := 0x3A9ED3736EED3EEC9AEB5AC021B5465256817B1F08DE6CD0FBCEE548BA044BB5

/-- The y-coordinate of the auxiliary point `U_AUX` (44_generator.md R262; log 5). -/
def uAuxY : Nat := 0x7BCC5928BDC9C023DFC663B89E4F6969AB7517988E600EC1D242010C45C7974A

/-- The number of generator-context slots `NGCTX` (00_scope.md R6; log 6). -/
abbrev ngctx : Nat := 2

/-- The number of multiply-context slots `NMCTX` (00_scope.md R6; log 6). -/
abbrev nmctx : Nat := 2

/-- `WINDOW_A`: the wNAF window of `DUAL_MUL` for `na` (00_scope.md R5). -/
def windowA : Nat := 5

/-- `WINDOW_G`: the wNAF window of `DUAL_MUL` for `ng` (00_scope.md R5). -/
def windowG : Nat := 16

/-- The default of `STATIC_PRECOMP` (00_scope.md R8), with which `State.reset` is constructed. A block of either value is
a state of the model: `State.staticPrecomp` (log 7). -/
def staticPrecomp : Bool := false

/-- `RETRY_CAP - 1`, with no body: 00_scope.md R7 leaves `RETRY_CAP` OPEN but for `RETRY_CAP ≥ 1` (log 8). -/
opaque retryCapPred : Nat

/-- `RETRY_CAP`: the most DRBG candidates one sampling loop of `GEN_BLIND` may draw (00_scope.md R7; log 8). -/
def retryCap : Nat := retryCapPred + 1

/-- `DRBG(key, t)`: the `t`-th 32-byte output under a 64-byte key, with no body: 00_scope.md R14 assumes
nothing of it except that it is a function of `(key, t)` (log 9). -/
opaque drbg : Vector Byte 64 → Nat → Vector Byte 32

/-- FREE VALUE: what the `leak` of a VT command holds beside its word, its fault and its table indices
(00_scope.md R17, 93_implementation_defined.md U23: any value). It has no body; `State.freeCount` picks a fresh
one for each executed VT command (logs 13, 14). -/
opaque freeLeak : Nat → BitVec 64

end Sys2Proof.Config
end

