-- ==== Sys2Proof/Syntax.lean ====
section
/-! DEFINITION. The 37 commands (30_encoding.md R114), one constructor per row of the opcode table. A register
selector is a number of its file's range (R112), so an operand that does not exist cannot be written down; what
remains to be checked, the count and ranges of `BATCH_NORM`, stands in WellFormed.lean. -/

namespace Sys2Proof

/-- Selects a scalar register `S0..S7` (30_encoding.md R112). -/
abbrev SSel := Fin 8
/-- Selects a field register `F0..F3` (30_encoding.md R112). -/
abbrev FSel := Fin 4
/-- Selects an affine register `A0..A7` (30_encoding.md R112). -/
abbrev ASel := Fin 8
/-- Selects a Jacobian register `J0..J7` (30_encoding.md R112). -/
abbrev JSel := Fin 8
/-- Selects a storage register `T0..T3` (30_encoding.md R112). -/
abbrev TSel := Fin 4
/-- Selects a wNAF buffer `W0..W1` (30_encoding.md R112). -/
abbrev WSel := Fin 2
/-- Selects a generator-context slot (30_encoding.md R112: `cx < NGCTX`). -/
abbrev GSlot := Fin Config.ngctx
/-- Selects a multiply-context slot (30_encoding.md R112: `cx < NMCTX`). -/
abbrev MSlot := Fin Config.nmctx

/-- A command. Operands stand in the order of the "ops" column of 30_encoding.md R114. -/
inductive Instr where
  -- 40_group_convert.md
  | gejSetGe (rd : JSel) (ra : ASel)
  | geSetGej (rd : ASel) (ra : JSel)
  | geSetGejVar (rd : ASel) (ra : JSel)
  | geSetGejZinv (rd : ASel) (ra : JSel) (rc : FSel)
  | batchNorm (rd : ASel) (ra : JSel) (count : Fin 16)
  | geNeg (rd ra : ASel)
  | gejNeg (rd ra : JSel)
  | geValid (ra : ASel)
  | gejRescale (rd ra : JSel) (rc : FSel)
  | geToSt (rd : TSel) (ra : ASel)
  | geFromSt (rd : ASel) (ra : TSel)
  | stCmov (rd ra : TSel)
  | stCsel (rd ra rb : TSel)
  -- 41_group_add.md
  | gejDblVar (rd ra : JSel) (rc : FSel)
  | gejAddVar (rd ra rb : JSel) (rc : FSel)
  | gejAddGeVar (rd ra : JSel) (rb : ASel)
  | gejAddZinvVar (rd ra : JSel) (rb : ASel) (rc : FSel)
  | gejAddGe (rd ra : JSel) (rb : ASel)
  -- 42_scalar.md
  | scAdd (rd ra rb : SSel)
  | scMul (rd ra rb : SSel)
  | scNeg (rd ra : SSel)
  | scInv (rd ra : SSel)
  | scInvVar (rd ra : SSel)
  | scIsEven (ra : SSel)
  -- 43_wnaf.md
  | wnaf (rd : WSel) (ra : SSel) (w : Fin 32) (len : Fin 512)
  -- 44_generator.md
  | genBuild (cx : GSlot)
  | genBlind (cx : GSlot)
  | genMul (rd : JSel) (ra : SSel) (cx : GSlot)
  | genClone (cx cs : GSlot)
  | genClear (cx : GSlot)
  | genSel (rd : TSel) (ra : SSel) (j : Fin 64) (cx : GSlot)
  | genRd (rd : TSel) (i : Fin 16) (j : Fin 64) (cx : GSlot)
  -- 45_dual_mul.md
  | mulBuild (cx : MSlot)
  | mulClone (cx cs : MSlot)
  | mulClear (cx : MSlot)
  | pregLookup (rd : ASel) (simm16 : BitVec 16) (cx : MSlot)
  | dualMul (rd : JSel) (ra : ASel) (rb rc : SSel) (cx : MSlot)
  deriving DecidableEq, Repr

end Sys2Proof
end

