-- ==== Sys2Proof/WellFormed.lean ====
section
/-! DEFINITION. What a command must satisfy beyond the ranges its operand types already enforce
(30_encoding.md R113, R115 (e)). -/

namespace Sys2Proof

/-- The count and the two register ranges of `BATCH_NORM` (30_encoding.md R113: `1..8`, `rd + N ≤ 8`,
`ra + N ≤ 8`). -/
abbrev BatchRangeOk (rd ra count : Nat) : Prop :=
  1 ≤ count ∧ count ≤ 8 ∧ rd + count ≤ 8 ∧ ra + count ≤ 8

/-- A command that has a legal encoding: 30_encoding.md R115 names no further condition. An out-of-range `w` or
`len` of `WNAF` and an even `simm16` of `PREG_LOOKUP` are legal encodings (R116). -/
def Instr.wellFormed (i : Instr) : Bool :=
  match i with
  | .batchNorm rd ra count => decide (BatchRangeOk rd ra count)
  | .gejSetGe .. | .geSetGej .. | .geSetGejVar .. | .geSetGejZinv .. | .geNeg .. | .gejNeg .. | .geValid ..
  | .gejRescale .. | .geToSt .. | .geFromSt .. | .stCmov .. | .stCsel .. | .gejDblVar .. | .gejAddVar ..
  | .gejAddGeVar .. | .gejAddZinvVar .. | .gejAddGe .. | .scAdd .. | .scMul .. | .scNeg .. | .scInv ..
  | .scInvVar .. | .scIsEven .. | .wnaf .. | .genBuild .. | .genBlind .. | .genMul .. | .genClone ..
  | .genClear .. | .genSel .. | .genRd .. | .mulBuild .. | .mulClone .. | .mulClear .. | .pregLookup ..
  | .dualMul .. => true

/-- `Instr.wellFormed` as a proposition. -/
abbrev Instr.WellFormed (i : Instr) : Prop := i.wellFormed = true

end Sys2Proof
end

