-- ==== Sys2Proof/Decode.lean ====
section
/-! DEFINITION. The decoder of 30_encoding.md (R110 to R117), total on every word and rejecting an illegal one by
the clause of R115 it breaks, and the encoder written from the same formats. -/

namespace Sys2Proof

/-- Why a command word is illegal: the clause of 30_encoding.md R115. -/
inductive Illegal where
  /-- R115 (a): the opcode is not one of the 37. -/
  | reservedOpcode
  /-- R115 (b): an unused or "zero" field is not 0. -/
  | nonzeroField
  /-- R115 (c): a register selector is outside its file's range. -/
  | selectorRange
  /-- R115 (d): a slot number is `≥ NGCTX` or `≥ NMCTX`. -/
  | slotRange
  /-- R115 (e): the count or a range of `BATCH_NORM`. -/
  | batchRange
  deriving DecidableEq, Repr

/-- The bits `w[lo + cnt - 1 : lo]` (00_scope.md R11). -/
def field (w : Word) (lo cnt : Nat) : Nat := w.toNat / 2 ^ lo % 2 ^ cnt

/-- Every field of the list must be 0 (30_encoding.md R115 (b)). -/
def requireZero (fields : List Nat) : Except Illegal Unit :=
  if fields.all (· == 0) then .ok () else .error .nonzeroField

/-- A register selector, or an immediate, that must be below `k` (30_encoding.md R112). -/
def selector (k v : Nat) : Except Illegal (Fin k) :=
  if h : v < k then .ok ⟨v, h⟩ else .error .selectorRange

/-- A slot field that must be below the number of slots (30_encoding.md R112). -/
def slot (k v : Nat) : Except Illegal (Fin k) :=
  if h : v < k then .ok ⟨v, h⟩ else .error .slotRange

/-- `BATCH_NORM` with its count and ranges tested (30_encoding.md R115 (e)). -/
def batchOperands (rd : ASel) (ra : JSel) (count : Fin 16) : Except Illegal Instr :=
  if BatchRangeOk rd ra count then .ok (.batchNorm rd ra count) else .error .batchRange

/-- The command a word stands for (30_encoding.md R111 for the fields, R114 for the opcodes and for the fields each
command uses). Fields a command does not use must be 0. -/
def decode (w : Word) : Except Illegal Instr :=
  let rd := field w 8 4
  let ra := field w 12 4
  -- format R
  let rb := field w 16 4
  let rc := field w 20 4
  let zr := field w 24 4
  let cs := field w 28 2
  let cx := field w 30 2
  -- format T
  let j := field w 16 6
  let zt := field w 22 8
  -- format W
  let ww := field w 16 5
  let len := field w 21 9
  -- format I
  let simm16 := field w 12 16
  match field w 0 8 with
  | 0x10 => do
    requireZero [rb, rc, zr, cs, cx]
    return .gejSetGe (← selector 8 rd) (← selector 8 ra)
  | 0x11 => do
    requireZero [rb, rc, zr, cs, cx]
    return .geSetGej (← selector 8 rd) (← selector 8 ra)
  | 0x12 => do
    requireZero [rb, rc, zr, cs, cx]
    return .geSetGejVar (← selector 8 rd) (← selector 8 ra)
  | 0x13 => do
    requireZero [rb, zr, cs, cx]
    return .geSetGejZinv (← selector 8 rd) (← selector 8 ra) (← selector 4 rc)
  | 0x14 => do
    requireZero [rc, zr, cs, cx]
    batchOperands (← selector 8 rd) (← selector 8 ra) (← selector 16 rb)
  | 0x15 => do
    requireZero [rb, rc, zr, cs, cx]
    return .geNeg (← selector 8 rd) (← selector 8 ra)
  | 0x16 => do
    requireZero [rb, rc, zr, cs, cx]
    return .gejNeg (← selector 8 rd) (← selector 8 ra)
  | 0x17 => do
    requireZero [rd, rb, rc, zr, cs, cx]
    return .geValid (← selector 8 ra)
  | 0x18 => do
    requireZero [rb, zr, cs, cx]
    return .gejRescale (← selector 8 rd) (← selector 8 ra) (← selector 4 rc)
  | 0x19 => do
    requireZero [rb, rc, zr, cs, cx]
    return .geToSt (← selector 4 rd) (← selector 8 ra)
  | 0x1A => do
    requireZero [rb, rc, zr, cs, cx]
    return .geFromSt (← selector 8 rd) (← selector 4 ra)
  | 0x1B => do
    requireZero [rb, rc, zr, cs, cx]
    return .stCmov (← selector 4 rd) (← selector 4 ra)
  | 0x1C => do
    requireZero [rc, zr, cs, cx]
    return .stCsel (← selector 4 rd) (← selector 4 ra) (← selector 4 rb)
  | 0x20 => do
    requireZero [rb, zr, cs, cx]
    return .gejDblVar (← selector 8 rd) (← selector 8 ra) (← selector 4 rc)
  | 0x21 => do
    requireZero [zr, cs, cx]
    return .gejAddVar (← selector 8 rd) (← selector 8 ra) (← selector 8 rb) (← selector 4 rc)
  | 0x22 => do
    requireZero [rc, zr, cs, cx]
    return .gejAddGeVar (← selector 8 rd) (← selector 8 ra) (← selector 8 rb)
  | 0x23 => do
    requireZero [zr, cs, cx]
    return .gejAddZinvVar (← selector 8 rd) (← selector 8 ra) (← selector 8 rb) (← selector 4 rc)
  | 0x24 => do
    requireZero [rc, zr, cs, cx]
    return .gejAddGe (← selector 8 rd) (← selector 8 ra) (← selector 8 rb)
  | 0x30 => do
    requireZero [rc, zr, cs, cx]
    return .scAdd (← selector 8 rd) (← selector 8 ra) (← selector 8 rb)
  | 0x31 => do
    requireZero [rc, zr, cs, cx]
    return .scMul (← selector 8 rd) (← selector 8 ra) (← selector 8 rb)
  | 0x32 => do
    requireZero [rb, rc, zr, cs, cx]
    return .scNeg (← selector 8 rd) (← selector 8 ra)
  | 0x33 => do
    requireZero [rb, rc, zr, cs, cx]
    return .scInv (← selector 8 rd) (← selector 8 ra)
  | 0x34 => do
    requireZero [rb, rc, zr, cs, cx]
    return .scInvVar (← selector 8 rd) (← selector 8 ra)
  | 0x35 => do
    requireZero [rd, rb, rc, zr, cs, cx]
    return .scIsEven (← selector 8 ra)
  | 0x40 => do
    requireZero [cx]
    return .wnaf (← selector 2 rd) (← selector 8 ra) (← selector 32 ww) (← selector 512 len)
  | 0x50 => do
    requireZero [rd, ra, rb, rc, zr, cs]
    return .genBuild (← slot Config.ngctx cx)
  | 0x51 => do
    requireZero [rd, ra, rb, rc, zr, cs]
    return .genBlind (← slot Config.ngctx cx)
  | 0x52 => do
    requireZero [rb, rc, zr, cs]
    return .genMul (← selector 8 rd) (← selector 8 ra) (← slot Config.ngctx cx)
  | 0x53 => do
    requireZero [rd, ra, rb, rc, zr]
    return .genClone (← slot Config.ngctx cx) (← slot Config.ngctx cs)
  | 0x54 => do
    requireZero [rd, ra, rb, rc, zr, cs]
    return .genClear (← slot Config.ngctx cx)
  | 0x55 => do
    requireZero [zt]
    return .genSel (← selector 4 rd) (← selector 8 ra) (← selector 64 j) (← slot Config.ngctx cx)
  | 0x56 => do
    requireZero [zt]
    return .genRd (← selector 4 rd) (← selector 16 ra) (← selector 64 j) (← slot Config.ngctx cx)
  | 0x60 => do
    requireZero [rd, ra, rb, rc, zr, cs]
    return .mulBuild (← slot Config.nmctx cx)
  | 0x61 => do
    requireZero [rd, ra, rb, rc, zr]
    return .mulClone (← slot Config.nmctx cx) (← slot Config.nmctx cs)
  | 0x62 => do
    requireZero [rd, ra, rb, rc, zr, cs]
    return .mulClear (← slot Config.nmctx cx)
  | 0x63 => do
    requireZero [cs]
    return .pregLookup (← selector 8 rd) (BitVec.ofNat 16 simm16) (← slot Config.nmctx cx)
  | 0x64 => do
    requireZero [zr, cs]
    return .dualMul (← selector 8 rd) (← selector 8 ra) (← selector 8 rb) (← selector 8 rc)
      (← slot Config.nmctx cx)
  | _ => .error .reservedOpcode

/-- The opcode of a command, bits 7:0 of its word (30_encoding.md R114). -/
def Instr.opcode : Instr → Byte
  | .gejSetGe .. => 0x10
  | .geSetGej .. => 0x11
  | .geSetGejVar .. => 0x12
  | .geSetGejZinv .. => 0x13
  | .batchNorm .. => 0x14
  | .geNeg .. => 0x15
  | .gejNeg .. => 0x16
  | .geValid .. => 0x17
  | .gejRescale .. => 0x18
  | .geToSt .. => 0x19
  | .geFromSt .. => 0x1A
  | .stCmov .. => 0x1B
  | .stCsel .. => 0x1C
  | .gejDblVar .. => 0x20
  | .gejAddVar .. => 0x21
  | .gejAddGeVar .. => 0x22
  | .gejAddZinvVar .. => 0x23
  | .gejAddGe .. => 0x24
  | .scAdd .. => 0x30
  | .scMul .. => 0x31
  | .scNeg .. => 0x32
  | .scInv .. => 0x33
  | .scInvVar .. => 0x34
  | .scIsEven .. => 0x35
  | .wnaf .. => 0x40
  | .genBuild .. => 0x50
  | .genBlind .. => 0x51
  | .genMul .. => 0x52
  | .genClone .. => 0x53
  | .genClear .. => 0x54
  | .genSel .. => 0x55
  | .genRd .. => 0x56
  | .mulBuild .. => 0x60
  | .mulClone .. => 0x61
  | .mulClear .. => 0x62
  | .pregLookup .. => 0x63
  | .dualMul .. => 0x64

/-- A word of format R (30_encoding.md R111); its bits 27:24 are zero. -/
def wordR (op : Byte) (rd ra rb rc cs cx : Nat) : Word :=
  BitVec.ofNat 32
    (op.toNat + rd * 2 ^ 8 + ra * 2 ^ 12 + rb * 2 ^ 16 + rc * 2 ^ 20 + cs * 2 ^ 28 + cx * 2 ^ 30)

/-- A word of format T (30_encoding.md R111); its bits 29:22 are zero. -/
def wordT (op : Byte) (rd ra j cx : Nat) : Word :=
  BitVec.ofNat 32 (op.toNat + rd * 2 ^ 8 + ra * 2 ^ 12 + j * 2 ^ 16 + cx * 2 ^ 30)

/-- A word of format W (30_encoding.md R111); its bits 31:30 are zero. -/
def wordW (op : Byte) (rd ra w len : Nat) : Word :=
  BitVec.ofNat 32 (op.toNat + rd * 2 ^ 8 + ra * 2 ^ 12 + w * 2 ^ 16 + len * 2 ^ 21)

/-- A word of format I (30_encoding.md R111); its bits 29:28 are zero. -/
def wordI (op : Byte) (rd simm16 cx : Nat) : Word :=
  BitVec.ofNat 32 (op.toNat + rd * 2 ^ 8 + simm16 * 2 ^ 12 + cx * 2 ^ 30)

/-- The word of a command (30_encoding.md R111, R114): a field the command does not use is 0. -/
def encode (i : Instr) : Word :=
  match i with
  | .gejSetGe rd ra => wordR i.opcode rd ra 0 0 0 0
  | .geSetGej rd ra => wordR i.opcode rd ra 0 0 0 0
  | .geSetGejVar rd ra => wordR i.opcode rd ra 0 0 0 0
  | .geSetGejZinv rd ra rc => wordR i.opcode rd ra 0 rc 0 0
  | .batchNorm rd ra count => wordR i.opcode rd ra count 0 0 0
  | .geNeg rd ra => wordR i.opcode rd ra 0 0 0 0
  | .gejNeg rd ra => wordR i.opcode rd ra 0 0 0 0
  | .geValid ra => wordR i.opcode 0 ra 0 0 0 0
  | .gejRescale rd ra rc => wordR i.opcode rd ra 0 rc 0 0
  | .geToSt rd ra => wordR i.opcode rd ra 0 0 0 0
  | .geFromSt rd ra => wordR i.opcode rd ra 0 0 0 0
  | .stCmov rd ra => wordR i.opcode rd ra 0 0 0 0
  | .stCsel rd ra rb => wordR i.opcode rd ra rb 0 0 0
  | .gejDblVar rd ra rc => wordR i.opcode rd ra 0 rc 0 0
  | .gejAddVar rd ra rb rc => wordR i.opcode rd ra rb rc 0 0
  | .gejAddGeVar rd ra rb => wordR i.opcode rd ra rb 0 0 0
  | .gejAddZinvVar rd ra rb rc => wordR i.opcode rd ra rb rc 0 0
  | .gejAddGe rd ra rb => wordR i.opcode rd ra rb 0 0 0
  | .scAdd rd ra rb => wordR i.opcode rd ra rb 0 0 0
  | .scMul rd ra rb => wordR i.opcode rd ra rb 0 0 0
  | .scNeg rd ra => wordR i.opcode rd ra 0 0 0 0
  | .scInv rd ra => wordR i.opcode rd ra 0 0 0 0
  | .scInvVar rd ra => wordR i.opcode rd ra 0 0 0 0
  | .scIsEven ra => wordR i.opcode 0 ra 0 0 0 0
  | .wnaf rd ra w len => wordW i.opcode rd ra w len
  | .genBuild cx => wordR i.opcode 0 0 0 0 0 cx
  | .genBlind cx => wordR i.opcode 0 0 0 0 0 cx
  | .genMul rd ra cx => wordR i.opcode rd ra 0 0 0 cx
  | .genClone cx cs => wordR i.opcode 0 0 0 0 cs cx
  | .genClear cx => wordR i.opcode 0 0 0 0 0 cx
  | .genSel rd ra j cx => wordT i.opcode rd ra j cx
  | .genRd rd e j cx => wordT i.opcode rd e j cx
  | .mulBuild cx => wordR i.opcode 0 0 0 0 0 cx
  | .mulClone cx cs => wordR i.opcode 0 0 0 0 cs cx
  | .mulClear cx => wordR i.opcode 0 0 0 0 0 cx
  | .pregLookup rd simm16 cx => wordI i.opcode rd simm16.toNat cx
  | .dualMul rd ra rb rc cx => wordR i.opcode rd ra rb rc 0 cx

/-- The instruction the decoder reads from a word of the opcode table: every command is one 32-bit word
(30_encoding.md R110), so `w` is that word, its bits from `nbits` on being 0. -/
def decodeTableWord (nbits w : Nat) : Option Instr :=
  (decode (BitVec.ofNat 32 (w % 2 ^ nbits))).toOption

end Sys2Proof
end

