-- ==== Sys2Proof/Machine/Values.lean ====
section
/-! DEFINITION. The values commands compute with: field elements, scalars, and affine, Jacobian and storage
values (00_scope.md R11 to R13, R15). An operand value is always canonical (10_state.md R33 to R37), so a field
element carries the bound `< p` and a scalar the bound `< n`. -/

namespace Sys2Proof.Machine

/-- A field element: an integer in `[0, p)` (00_scope.md R12). -/
abbrev Fe := Fin Config.p

/-- A scalar: an integer in `[0, n)` (00_scope.md R13). -/
abbrev Sc := Fin Config.n

theorem p_pos : 0 < Config.p := by decide

theorem n_pos : 0 < Config.n := by decide

/-- An affine value `(x, y, inf)` (00_scope.md R15). -/
structure Ge where
  x : Fe
  y : Fe
  inf : Bool
  deriving DecidableEq, Repr

/-- A Jacobian value `(x, y, z, inf)` (00_scope.md R15). -/
structure Gej where
  x : Fe
  y : Fe
  z : Fe
  inf : Bool
  deriving DecidableEq, Repr

/-- A storage value `(x, y)`; it has no infinity flag (00_scope.md R15, 10_state.md R37). -/
structure St where
  x : Fe
  y : Fe
  deriving DecidableEq, Repr

/-- The contents of a generator table memory, entry `(j, i)` at `[j][i]` (10_state.md R50, 20_memory.md R80). -/
abbrev GenTable := Vector (Vector St 16) 64

/-- The contents of a multiply table memory (10_state.md R51, 20_memory.md R80). -/
abbrev MulTable := Vector St 16384

end Sys2Proof.Machine
end

