-- ==== Sys2Proof/Machine/Arith.lean ====
section
/-! DEFINITION. The field primitives (00_scope.md R12), the scalar primitives (R13), the bit fields of a scalar and
the big-endian byte strings (R11). Each result is computed as an exact integer and reduced once. -/

namespace Sys2Proof.Machine

/-- `fnorm(v) = v mod p` (00_scope.md R12). -/
def feOfNat (v : Nat) : Fe := ⟨v % Config.p, Nat.mod_lt v p_pos⟩

/-- `v mod n` (10_state.md R33). -/
def scOfNat (v : Nat) : Sc := ⟨v % Config.n, Nat.mod_lt v n_pos⟩

/-- `fadd(a,b) = (a + b) mod p` (00_scope.md R12). -/
def fadd (a b : Fe) : Fe := feOfNat (a.val + b.val)

/-- `fsub(a,b) = (a - b) mod p` (00_scope.md R12); `p - b` is exact because `b < p`. -/
def fsub (a b : Fe) : Fe := feOfNat (a.val + (Config.p - b.val))

/-- `fneg(a) = (p - a) mod p` (00_scope.md R12). -/
def fneg (a : Fe) : Fe := feOfNat (Config.p - a.val)

/-- `fmul(a,b) = (a * b) mod p` (00_scope.md R12). -/
def fmul (a b : Fe) : Fe := feOfNat (a.val * b.val)

/-- `fsqr(a) = (a * a) mod p` (00_scope.md R12). -/
def fsqr (a : Fe) : Fe := feOfNat (a.val * a.val)

/-- `fmulint(k,a) = (k * a) mod p` (00_scope.md R12). -/
def fmulint (k : Nat) (a : Fe) : Fe := feOfNat (k * a.val)

/-- `fiszero(a)` (00_scope.md R12). -/
def fiszero (a : Fe) : Bool := a.val == 0

/-- `fcmov(d,s,flag) = s if flag = 1 else d` (00_scope.md R12). -/
def fcmov (d s : Fe) (flag : Bool) : Fe := if flag then s else d

/-- `acc · base^e mod m` by squaring, for an exponent of at most `bits` bits. -/
def powModGo (m : Nat) : (bits base e acc : Nat) → Nat
  | 0, _, _, acc => acc
  | bits + 1, base, e, acc =>
    powModGo m bits (base * base % m) (e / 2) (if e % 2 = 1 then acc * base % m else acc)

/-- `base^e mod m` for `e < 2^256`. -/
def powMod (m base e : Nat) : Nat := powModGo m 256 (base % m) e (1 % m)

/-- `finv(a)`: the unique `r` in `[1, p)` with `(a * r) mod p = 1`, for `a ≠ 0` (00_scope.md R12), computed as
`a^(p-2) mod p` (DEDUCED, log 10). Every command that needs `finv(0)` raises F_ZERO first. -/
def finv (a : Fe) : Fe := feOfNat (powMod Config.p a.val (Config.p - 2))

/-- `fsqrt(a)`: `r = a^((p+1)/4) mod p` if `r * r mod p = a`, else none (00_scope.md R12). -/
def fsqrt (a : Fe) : Option Fe :=
  let r := feOfNat (powMod Config.p a.val ((Config.p + 1) / 4))
  if fsqr r = a then some r else none

/-- `sadd(a,b) = (a + b) mod n` (00_scope.md R13). -/
def sadd (a b : Sc) : Sc := scOfNat (a.val + b.val)

/-- `ssub(a,b) = (a - b) mod n` (00_scope.md R13); `n - b` is exact because `b < n`. -/
def ssub (a b : Sc) : Sc := scOfNat (a.val + (Config.n - b.val))

/-- `smul(a,b) = (a * b) mod n` (00_scope.md R13). -/
def smul (a b : Sc) : Sc := scOfNat (a.val * b.val)

/-- `sneg(a) = (n - a) mod n` (00_scope.md R13). -/
def sneg (a : Sc) : Sc := scOfNat (Config.n - a.val)

/-- `sinv(a) = a^(n-2) mod n` (00_scope.md R13). -/
def sinv (a : Sc) : Sc := scOfNat (powMod Config.n a.val (Config.n - 2))

/-- `sbits(a, lo, cnt) = (a >> lo) mod 2^cnt` (00_scope.md R13). -/
def sbits (a lo cnt : Nat) : Nat := a / 2 ^ lo % 2 ^ cnt

/-- The `j`-th four-bit window of a scalar, `j = 0` the least significant (44_generator.md R264, R267). -/
def window (a : Sc) (j : Fin 64) : Fin 16 := ⟨sbits a.val (4 * j.val) 4, Nat.mod_lt _ (by decide)⟩

/-- `sext_16(v)`: the low 16 bits as a two's-complement signed integer (00_scope.md R11). -/
def sext16 (v : BitVec 16) : Int := v.toInt

/-- `be32(v)`: byte 0 is `v[255:248]`, byte 31 is `v[7:0]` (00_scope.md R11). -/
def be32 (v : U256) : Vector Byte 32 := Vector.ofFn fun k => v.extractLsb' (8 * (31 - k.val)) 8

/-- `int_be(s)`, the inverse of `be32`, as an integer (00_scope.md R11). -/
def intBe (s : Vector Byte 32) : Nat := s.toList.foldl (fun acc byte => acc * 256 + byte.toNat) 0

end Sys2Proof.Machine
end

