-- ==== Sys2Proof/Machine/Flags.lean ====
section
/-! DEFINITION. Every flag and one-bit selector the block computes (10_state.md R43): the two results that go to
`TFLAG.T`, and the selectors that exist only inside their commands. -/

namespace Sys2Proof.Machine

/-- The result of `GE_VALID`: a finite point with `y² = x³ + 7` (40_group_convert.md R164). -/
def validFlag (a : Ge) : Bool :=
  if a.inf then false
  else fsqr a.y == fadd (fmul (fsqr a.x) a.x) (feOfNat Config.b)

/-- The result of `SC_IS_EVEN`: the parity of the representative in `[0, n)` (42_scalar.md R226). -/
def evenFlag (a : Sc) : Bool := a.val % 2 == 0

/-- The sign flag of the wNAF encoder: bit 255 of the representative is set (43_wnaf.md R240). -/
def negativeFlag (a : Sc) : Bool := sbits a.val 255 1 == 1

/-- The `degenerate` selector of `GEJ_ADD_GE` (41_group_add.md R200). -/
def degenerateFlag (m rr : Fe) : Bool := fiszero m && fiszero rr

/-- The `inf3` selector of `GEJ_ADD_GE` (41_group_add.md R200). -/
def unifiedInfinityFlag (z3 : Fe) (aInf : Bool) : Bool := fiszero z3 && !aInf

end Sys2Proof.Machine
end

