-- ==== Sys2Proof/Machine/Curve.lean ====
section
/-! DEFINITION. The functions on point values: conversions, negation, rescale (40_group_convert.md), doubling and
the additions (41_group_add.md), line for line from the rules' pseudocode. They fix the exact coordinates a
command writes (92_eei_decisions.md D8). -/

namespace Sys2Proof.Machine

/-- `AINF = (0, 0, true)` (00_scope.md R15). -/
def AINF : Ge := ⟨feOfNat 0, feOfNat 0, true⟩

/-- `JINF = (0, 0, 0, true)` (00_scope.md R15). -/
def JINF : Gej := ⟨feOfNat 0, feOfNat 0, feOfNat 0, true⟩

/-- The base point `G` (00_scope.md R9). -/
def basePoint : Ge := ⟨feOfNat Config.gx, feOfNat Config.gy, false⟩

/-- The auxiliary point `U_AUX` (00_scope.md R10, 44_generator.md R262). -/
def auxPoint : Ge := ⟨feOfNat Config.uAuxX, feOfNat Config.uAuxY, false⟩

/-- `jacobian(P)` (40_group_convert.md R151): `z = 1`. -/
def gejOfGe (a : Ge) : Gej := if a.inf then JINF else ⟨a.x, a.y, feOfNat 1, false⟩

/-- `ge_of_gej_zinv` (40_group_convert.md R161): `zi` is used as given. -/
def geOfGejZinv (a : Gej) (zi : Fe) : Ge :=
  if a.inf then AINF
  else
    let zi2 := fsqr zi
    let zi3 := fmul zi2 zi
    ⟨fmul a.x zi2, fmul a.y zi3, false⟩

/-- Whether `ge_of_gej` needs `finv(0)` (40_group_convert.md R160): such a conversion raises F_ZERO. -/
def needsZeroInverse (a : Gej) : Bool := !a.inf && fiszero a.z

/-- The affine value `ge_of_gej` returns where it raises nothing (40_group_convert.md R160). -/
def affineOf (a : Gej) : Ge := geOfGejZinv a (finv a.z)

/-- Negation of an affine value (40_group_convert.md R162). -/
def geNeg (a : Ge) : Ge := if a.inf then AINF else ⟨a.x, fneg a.y, false⟩

/-- Negation of a Jacobian value (40_group_convert.md R163). -/
def gejNeg (a : Gej) : Gej := if a.inf then JINF else ⟨a.x, fneg a.y, a.z, false⟩

/-- `(x·s², y·s³, z·s)` (40_group_convert.md R165). -/
def gejRescale (a : Gej) (s : Fe) : Gej :=
  if a.inf then JINF
  else
    let ss := fsqr s
    ⟨fmul a.x ss, fmul (fmul a.y ss) s, fmul a.z s, false⟩

/-- `st_cmov(dst, src, flag)`: `src` if `flag = 1`, else `dst`, both coordinates at once (40_group_convert.md R158). -/
def stCmov (dst src : St) (flag : Bool) : St := if flag then src else dst

/-- A storage value as the affine value it stands for (20_memory.md R89: never the identity). -/
def geOfSt (e : St) : Ge := ⟨e.x, e.y, false⟩

/-- `gej_double(a)`, the double and its ratio (41_group_add.md R196). -/
def gejDouble (a : Gej) : Gej × Fe :=
  if a.inf then (JINF, feOfNat 1)
  else
    let ratio := fmulint 2 a.y
    let z3 := fmulint 2 (fmul a.y a.z)
    let t1 := fmulint 3 (fsqr a.x)
    let t2 := fsqr t1
    let t3 := fmulint 2 (fsqr a.y)
    let t4 := fmulint 2 (fsqr t3)
    let t3' := fmul t3 a.x
    let x3 := fsub t2 (fmulint 4 t3')
    let t5 := fsub (fmulint 6 t3') t2
    let y3 := fsub (fmul t1 t5) t4
    (⟨x3, y3, z3, false⟩, ratio)

/-- `add_tail` (41_group_add.md R190); `none` stands for `redirect`, the two points are equal. -/
def addTail (a : Gej) (u1 u2 s1 s2 zf : Fe) : Option (Gej × Fe) :=
  let h := fsub u2 u1
  let i := fsub s2 s1
  if fiszero h then
    if fiszero i then none else some (JINF, feOfNat 0)
  else
    let i2 := fsqr i
    let h2 := fsqr h
    let h3 := fmul h h2
    let ratio := fmul h zf
    let z3 := fmul a.z ratio
    let t := fmul u1 h2
    let x3 := fsub (fsub i2 h3) (fmulint 2 t)
    let y3 := fsub (fmul i (fsub t x3)) (fmul s1 h3)
    some (⟨x3, y3, z3, false⟩, ratio)

/-- `gej_add(a, b)`, the sum and its ratio (41_group_add.md R197). -/
def gejAdd (a b : Gej) : Gej × Fe :=
  if a.inf then (b, feOfNat 0)
  else if b.inf then (a, feOfNat 1)
  else
    let z22 := fsqr b.z
    let z12 := fsqr a.z
    let u1 := fmul a.x z22
    let u2 := fmul b.x z12
    let s1 := fmul (fmul a.y z22) b.z
    let s2 := fmul (fmul b.y z12) a.z
    match addTail a u1 u2 s1 s2 b.z with
    | none => gejDouble a
    | some k => k

/-- `gej_add_ge(a, b)`, the mixed addition (41_group_add.md R198). -/
def gejAddGe (a : Gej) (b : Ge) : Gej :=
  if a.inf then (if b.inf then JINF else ⟨b.x, b.y, feOfNat 1, false⟩)
  else if b.inf then a
  else
    let z12 := fsqr a.z
    let u1 := a.x
    let u2 := fmul b.x z12
    let s1 := a.y
    let s2 := fmul (fmul b.y z12) a.z
    match addTail a u1 u2 s1 s2 (feOfNat 1) with
    | none => (gejDouble a).1
    | some k => k.1

/-- `gej_add_zinv(a, b, bzinv)` (41_group_add.md R199): `b` is read as the Jacobian point `(b.x, b.y, 1/bzinv)`. -/
def gejAddZinv (a : Gej) (b : Ge) (bzinv : Fe) : Gej :=
  if b.inf then a
  else if a.inf then
    let z2 := fsqr bzinv
    let z3 := fmul z2 bzinv
    ⟨fmul b.x z2, fmul b.y z3, feOfNat 1, false⟩
  else
    let az := fmul a.z bzinv
    let z12 := fsqr az
    let u1 := a.x
    let u2 := fmul b.x z12
    let s1 := a.y
    let s2 := fmul (fmul b.y z12) az
    match addTail a u1 u2 s1 s2 (feOfNat 1) with
    | none => (gejDouble a).1
    | some k => k.1

/-- `gej_add_ge_ct(a, b)`, the unified addition (41_group_add.md R200): every step runs for every operand, and the
selectors only steer conditional moves. -/
def gejAddGeCt (a : Gej) (b : Ge) : Gej :=
  let zz := fsqr a.z
  let u1 := a.x
  let u2 := fmul b.x zz
  let s1 := a.y
  let s2 := fmul (fmul b.y zz) a.z
  let t := fadd u1 u2
  let m := fadd s1 s2
  let rr := fsub (fsqr t) (fmul u1 u2)
  let degenerate := degenerateFlag m rr
  let rrAlt := fcmov (fmulint 2 s1) rr (!degenerate)
  let mAlt := fcmov (fsub u1 u2) m (!degenerate)
  let nn := fsqr mAlt
  let q := fmul nn t
  let nn' := fcmov (fsqr nn) (feOfNat 0) degenerate
  let z3 := fmulint 2 (fmul a.z mAlt)
  let inf3 := unifiedInfinityFlag z3 a.inf
  let xh := fsub (fsqr rrAlt) q
  let yh := fsub (fmul rrAlt (fsub q (fmulint 2 xh))) nn'
  let x3 := fcmov (fmulint 4 xh) b.x a.inf
  let y3 := fcmov (fmulint 4 yh) b.y a.inf
  let z3' := fcmov z3 (feOfNat 1) a.inf
  if inf3 then JINF else ⟨x3, y3, z3', false⟩

end Sys2Proof.Machine
end

