-- ==== Sys2Proof/Machine/Tables.lean ====
section
/-! DEFINITION. The tables the build commands produce, by the recipes of 44_generator.md R263 and 45_dual_mul.md
R302 in the block's own formulas (the values do not depend on the recipe; DEDUCED, log 11). -/

namespace Sys2Proof.Machine

/-- The storage form of a finite Jacobian value (44_generator.md R263: batch conversion, then storage form). -/
def storageOf (a : Gej) : St :=
  let g := affineOf a
  ⟨g.x, g.y⟩

/-- `first`, `first + step`, … : `count` Jacobian values, each the sum `gej_add` of the one before and `step`. -/
def addChain (step : Gej) : (count : Nat) → (first : Gej) → List Gej
  | 0, _ => []
  | count + 1, first => first :: addChain step count (gejAdd first step).1

theorem length_addChain (step : Gej) (count : Nat) (first : Gej) :
    (addChain step count first).length = count := by
  induction count generalizing first with
  | zero => rfl
  | succ count ih => simp [addChain, ih]

/-- `count` storage values from an addition chain. -/
def chainTable (step first : Gej) (count : Nat) : Vector St count :=
  ⟨((addChain step count first).map storageOf).toArray, by simp [length_addChain]⟩

/-- Four doublings: `16·g` (44_generator.md R263). -/
def sixteenTimes (g : Gej) : Gej :=
  (gejDouble (gejDouble (gejDouble (gejDouble g).1).1).1).1

/-- The offset of group `j + 1` from that of group `j`: doubled, and at `j = 62` brought to `(1 - 2^63)·U_AUX`
(44_generator.md R263). -/
def nextOffset (j : Nat) (ubase : Gej) : Gej :=
  let doubled := (gejDouble ubase).1
  if j = 62 then (gejAdd (gejNeg doubled) (gejOfGe auxPoint)).1 else doubled

/-- The groups `j`, `j + 1`, … of the generator table, `count` of them (44_generator.md R263). -/
def genGroups : (count j : Nat) → (gbase ubase : Gej) → List (Vector St 16)
  | 0, _, _, _ => []
  | count + 1, j, gbase, ubase =>
    chainTable gbase ubase 16 :: genGroups count (j + 1) (sixteenTimes gbase) (nextOffset j ubase)

theorem length_genGroups (count j : Nat) (gbase ubase : Gej) :
    (genGroups count j gbase ubase).length = count := by
  induction count generalizing j gbase ubase with
  | zero => rfl
  | succ count ih => simp [genGroups, ih]

/-- The generator table: `prec[j][i]` is the storage form of `(16^j · i)·G + U_j` (44_generator.md R263). -/
def genTable : GenTable :=
  ⟨(genGroups 64 0 (gejOfGe basePoint) (gejOfGe auxPoint)).toArray, by simp [length_genGroups]⟩

/-- The multiply table: `pre_g[i]` is the storage form of `(2·i + 1)·G` (45_dual_mul.md R302). -/
def mulTable : MulTable :=
  chainTable (gejDouble (gejOfGe basePoint)).1 (gejOfGe basePoint) 16384

end Sys2Proof.Machine
end

