-- ==== Sys2Proof/Machine/State.lean ====
section
/-! DEFINITION. The state of the block (10_state.md R30 to R57), the host accesses that drive it (20_memory.md R80 to
R96), the fault codes (60_exceptions.md R331) and the state after reset. -/

namespace Sys2Proof.Machine

/-- The block's fault codes (60_exceptions.md R331). A command that raises one ends in the fault entry of R340,
which is a NEXT state of the model (log 3: safe), so no step answers `Outcome.fault`. -/
inductive Fault where
  /-- `F_ILLEGAL`, raised by any `CMD` write of an illegal word (R332). -/
  | illegal
  /-- `F_INFINITY`, raised by `GE_TO_ST` and `GEJ_ADD_GE` (R339). -/
  | infinity
  /-- `F_ZERO`, raised by `SC_INV`, `SC_INV_VAR`, `GE_SET_GEJ`, `GE_SET_GEJ_VAR`, `BATCH_NORM`, `GEJ_RESCALE` and,
  for a point off the curve, `DUAL_MUL` (R333). -/
  | zero
  /-- `F_NOT_BUILT`, raised by the commands that read a context slot (R334). -/
  | notBuilt
  /-- `F_WNAF_PARAM`, raised by `WNAF` (R335). -/
  | wnafParam
  /-- `F_WNAF_RANGE`, raised by `WNAF` (R336). -/
  | wnafRange
  /-- `F_DRBG`, raised by `GEN_BLIND` (R337). -/
  | drbg
  /-- `F_INDEX`, raised by `PREG_LOOKUP` (R338). -/
  | index
  deriving DecidableEq, Repr

/-- The reasons a step can refuse. -/
inductive Refusal where
  /-- A command that has no meaning yet, by its mnemonic; raised by an arm of `exec` only (safe: the run stops). -/
  | notModelled (mnemonic : String)
  deriving DecidableEq, Repr

/-- An affine point register: raw coordinates and the `INF` bit (10_state.md R35). -/
structure AReg where
  x : U256
  y : U256
  inf : Bool
  deriving DecidableEq, Repr

/-- A Jacobian point register: raw coordinates and the `INF` bit (10_state.md R36). -/
structure JReg where
  x : U256
  y : U256
  z : U256
  inf : Bool
  deriving DecidableEq, Repr

/-- A storage point register (10_state.md R37). -/
structure TReg where
  x : U256
  y : U256
  deriving DecidableEq, Repr

/-- A wNAF digit buffer: 256 signed 32-bit digits and the count `bits` (10_state.md R38). -/
structure WBuf where
  digit : Vector Word 256
  bits : BitVec 9
  deriving DecidableEq, Repr

/-- The fields of `FAULTINFO` (10_state.md R46). -/
structure FaultInfo where
  code : Byte
  op : Byte
  deriving DecidableEq, Repr

/-- A generator-context slot (10_state.md R50). `prec` is populated iff the slot is built, so the one field carries
both: `none` is an unbuilt slot, whose table has no value (log 12). -/
structure GenCtx where
  prec : Option GenTable
  initial : Gej
  blind : Sc
  deriving DecidableEq, Repr

/-- A multiply-context slot (10_state.md R51); `none` is an unbuilt slot (log 12). -/
structure MulCtx where
  preG : Option MulTable
  deriving DecidableEq, Repr

/-- `GCTX[c].built` (10_state.md R50). -/
def GenCtx.built (c : GenCtx) : Bool := c.prec.isSome

/-- `MCTX[c].built` (10_state.md R51). -/
def MulCtx.built (c : MulCtx) : Bool := c.preG.isSome

/-- The table index of one `TblRead` (20_memory.md R86), part of a command's `leak`. -/
inductive TblIndex where
  | gen (j : Fin 64) (i : Fin 16)
  | mul (i : Fin 16384)
  deriving DecidableEq, Repr

/-- What a command reveals beside its word and its fault: the number of DRBG outputs it drew and the table indices
it used, in order (00_scope.md R17, 20_memory.md R86). -/
structure Trace where
  draws : Nat
  reads : List TblIndex
  deriving DecidableEq, Repr

/-- The leakage value of an executed command (00_scope.md R17; log 13). `free` is the unconstrained part of a VT
command's leak; a CT command has none. -/
structure Leak where
  word : Word
  fault : Option Fault
  trace : Trace
  free : Option (BitVec 64)
  deriving DecidableEq, Repr

/-- One event at the block's host interface (20_memory.md R83, R85; 70_reset_and_hazards.md R370). `width` is the
access width in bits; an offset is one of the byte offsets `0x0000..0x1FFF` (20_memory.md R80; log 15). -/
inductive HostAccess where
  | read (width : Nat) (offset : BitVec 13)
  | write (width : Nat) (offset : BitVec 13) (data : Word)
  | hardReset
  deriving DecidableEq, Repr

/-- What the block answered the host's last access (20_memory.md R83, R85; log 2). -/
inductive Response where
  /-- No access since power-up. -/
  | none
  /-- The word a read returned. -/
  | data (w : Word)
  /-- A write, or a reset, that was admitted. -/
  | accepted
  /-- An access that was not admitted: a bus error, no data. -/
  | busError
  deriving DecidableEq, Repr

/-- The state: everything 10_state.md R30 gives the block, the parameter `STATIC_PRECOMP` it was constructed with
(00_scope.md R8; log 7), `leak` (00_scope.md R17), and the model's own fields `host`, `response` and `freeCount` (logs 1,
2, 14). -/
structure State where
  /-- `S_raw[0..7]` (R31). -/
  sRaw : Vector U256 8
  /-- `F_raw[0..3]` (R32). -/
  fRaw : Vector U256 4
  /-- `A[0..7]` (R35). -/
  aReg : Vector AReg 8
  /-- `J[0..7]` (R36). -/
  jReg : Vector JReg 8
  /-- `T[0..3]` (R37). -/
  tReg : Vector TReg 4
  /-- `W[0..1]` (R38). -/
  wBuf : Vector WBuf 2
  /-- `TFLAG.T` (R41). -/
  tflag : Bool
  /-- `RETVAL` (R42). -/
  retval : BitVec 9
  /-- `SEED` (R49). -/
  seed : U256
  /-- `STATUS.FAULT` (R45). -/
  fault : Bool
  /-- `FAULTINFO` (R46). -/
  faultInfo : FaultInfo
  /-- `GCTX[0..NGCTX-1]` (R50). -/
  gctx : Vector GenCtx Config.ngctx
  /-- `MCTX[0..NMCTX-1]` (R51). -/
  mctx : Vector MulCtx Config.nmctx
  /-- `STATIC_PRECOMP` (00_scope.md R8): fixed when the block is constructed; nothing writes it. -/
  staticPrecomp : Bool
  /-- The leak of the last executed command. -/
  leak : Option Leak
  /-- The host accesses still to come, oldest first. -/
  host : List HostAccess
  /-- The answer to the last host access. -/
  response : Response
  /-- The counter that picks the next free value. -/
  freeCount : Nat
  deriving DecidableEq, Repr

/-- A generator slot in the state `GEN_CLEAR` leaves (44_generator.md R270), the reset state of a dynamic block. -/
def GenCtx.unbuilt : GenCtx := ⟨none, JINF, scOfNat 0⟩

/-- A generator slot in the state `GEN_BUILD` leaves (44_generator.md R261): `initial = (Gx, Gy, 1)`, `blind = 1`. -/
def GenCtx.justBuilt : GenCtx := ⟨some genTable, gejOfGe basePoint, scOfNat 1⟩

/-- A multiply slot in the state `MUL_CLEAR` leaves (45_dual_mul.md R304). -/
def MulCtx.unbuilt : MulCtx := ⟨none⟩

/-- A multiply slot in the state `MUL_BUILD` leaves (45_dual_mul.md R301). -/
def MulCtx.justBuilt : MulCtx := ⟨some mulTable⟩

/-- The state after reset (10_state.md R57, 70_reset_and_hazards.md R371) of a block whose `STATIC_PRECOMP` is
`static` (R374). -/
def State.resetOf (static : Bool) : State where
  sRaw := Vector.replicate 8 0
  fRaw := Vector.replicate 4 0
  aReg := Vector.replicate 8 ⟨0, 0, true⟩
  jReg := Vector.replicate 8 ⟨0, 0, 0, true⟩
  tReg := Vector.replicate 4 ⟨0, 0⟩
  wBuf := Vector.replicate 2 ⟨Vector.replicate 256 0, 0⟩
  tflag := false
  retval := 0
  seed := 0
  fault := false
  faultInfo := ⟨0, 0⟩
  gctx := Vector.replicate Config.ngctx (if static then .justBuilt else .unbuilt)
  mctx := Vector.replicate Config.nmctx (if static then .justBuilt else .unbuilt)
  staticPrecomp := static
  leak := none
  host := []
  response := .none
  freeCount := 0

/-- The machine right after reset (10_state.md R57), of a block constructed with the default `STATIC_PRECOMP`. -/
def State.reset : State := State.resetOf Config.staticPrecomp

end Sys2Proof.Machine
end

