-- ==== Sys2Proof/Machine/Operands.lean ====
section
/-! DEFINITION. Operand values and result forms. A command reads a scalar register mod `n`, every field and
coordinate word mod `p`, and an identity as `AINF` or `JINF` (10_state.md R33 to R37); what it writes is canonical
(R39). -/

namespace Sys2Proof.Machine

/-- The operand value of a scalar register: `S_raw mod n` (10_state.md R33). -/
def scOfRaw (raw : U256) : Sc := scOfNat raw.toNat

/-- The operand value of a field register or coordinate: `raw mod p` (10_state.md R34). -/
def feOfRaw (raw : U256) : Fe := feOfNat raw.toNat

/-- The operand value of an affine register (10_state.md R35). -/
def geOfReg (r : AReg) : Ge := if r.inf then AINF else ⟨feOfRaw r.x, feOfRaw r.y, false⟩

/-- The operand value of a Jacobian register (10_state.md R36): `INF` alone says whether it is the identity. -/
def gejOfReg (r : JReg) : Gej := if r.inf then JINF else ⟨feOfRaw r.x, feOfRaw r.y, feOfRaw r.z, false⟩

/-- The operand value of a storage register (10_state.md R37). -/
def stOfReg (r : TReg) : St := ⟨feOfRaw r.x, feOfRaw r.y⟩

/-- The register content of a scalar result (10_state.md R39). -/
def scToRaw (a : Sc) : U256 := BitVec.ofNat 256 a.val

/-- The register content of a field result (10_state.md R39). -/
def feToRaw (a : Fe) : U256 := BitVec.ofNat 256 a.val

/-- The register content of an affine result: an identity has all coordinates 0 (10_state.md R39). -/
def geToReg (a : Ge) : AReg := if a.inf then ⟨0, 0, true⟩ else ⟨feToRaw a.x, feToRaw a.y, false⟩

/-- The register content of a Jacobian result: an identity has all coordinates 0 (10_state.md R39). -/
def gejToReg (a : Gej) : JReg :=
  if a.inf then ⟨0, 0, 0, true⟩ else ⟨feToRaw a.x, feToRaw a.y, feToRaw a.z, false⟩

/-- The register content of a storage result (10_state.md R39). -/
def stToReg (a : St) : TReg := ⟨feToRaw a.x, feToRaw a.y⟩

/-- A wNAF digit as a two's-complement word (20_memory.md R81). -/
def digitToWord (d : Int) : Word := BitVec.ofInt 32 d

end Sys2Proof.Machine
end

