-- ==== Sys2Proof/Machine/Timing.lean ====
section
/-! DEFINITION. The timing class of each command (30_encoding.md R114, 70_reset_and_hazards.md R387). -/

namespace Sys2Proof.Machine

/-- The timing class of a command (00_scope.md R17). -/
inductive TimingClass where
  /-- Constant time. -/
  | ct
  /-- `GEN_BLIND`: constant time in all but the number of DRBG outputs drawn (44_generator.md R266). -/
  | ctButDraws
  /-- Variable time. -/
  | vt
  deriving DecidableEq, Repr

/-- The class column of 30_encoding.md R114. -/
def timingClass : Instr → TimingClass
  | .geSetGej .. | .stCmov .. | .stCsel .. | .gejAddGe .. | .scInv .. | .genMul .. | .genSel .. => .ct
  | .genBlind .. => .ctButDraws
  | .gejSetGe .. | .geSetGejVar .. | .geSetGejZinv .. | .batchNorm .. | .geNeg .. | .gejNeg .. | .geValid ..
  | .gejRescale .. | .geToSt .. | .geFromSt .. | .gejDblVar .. | .gejAddVar .. | .gejAddGeVar ..
  | .gejAddZinvVar .. | .scAdd .. | .scMul .. | .scNeg .. | .scInvVar .. | .scIsEven .. | .wnaf ..
  | .genBuild .. | .genClone .. | .genClear .. | .genRd .. | .mulBuild .. | .mulClone .. | .mulClear ..
  | .pregLookup .. | .dualMul .. => .vt

/-- Whether a command's leak has an unconstrained part (00_scope.md R17, 93_implementation_defined.md U23). -/
def leaksFreely (i : Instr) : Bool := timingClass i == .vt

end Sys2Proof.Machine
end

