-- ==== Sys2Proof/Machine/Ops.lean ====
section
/-! DEFINITION. The named operations every meaning is written with: reading operands, writing results, the table
primitives (20_memory.md R86 to R89), taking a fault (60_exceptions.md R340), the end of a command with its leak
(00_scope.md R17), and reset (70_reset_and_hazards.md R371), the only way back from a fault. -/

namespace Sys2Proof.Machine

/-- The answer of a meaning. -/
abbrev Answer := Host.Outcome State Fault Refusal

/-! ### Reading operands and writing results (10_state.md R33 to R39) -/

/-- The operand `S[i]`. -/
def State.readS (s : State) (i : SSel) : Sc := scOfRaw s.sRaw[i]
/-- The operand `F[i]`. -/
def State.readF (s : State) (i : FSel) : Fe := feOfRaw s.fRaw[i]
/-- The operand `A[i]`. -/
def State.readA (s : State) (i : ASel) : Ge := geOfReg s.aReg[i]
/-- The operand `J[i]`. -/
def State.readJ (s : State) (i : JSel) : Gej := gejOfReg s.jReg[i]
/-- The operand `T[i]`. -/
def State.readT (s : State) (i : TSel) : St := stOfReg s.tReg[i]

/-- `S[i] <- v`. -/
def State.writeS (s : State) (i : SSel) (v : Sc) : State := { s with sRaw := s.sRaw.set i (scToRaw v) }
/-- `F[i] <- v`. -/
def State.writeF (s : State) (i : FSel) (v : Fe) : State := { s with fRaw := s.fRaw.set i (feToRaw v) }
/-- `A[i] <- v`. -/
def State.writeA (s : State) (i : ASel) (v : Ge) : State := { s with aReg := s.aReg.set i (geToReg v) }
/-- `J[i] <- v`. -/
def State.writeJ (s : State) (i : JSel) (v : Gej) : State := { s with jReg := s.jReg.set i (gejToReg v) }
/-- `T[i] <- v`. -/
def State.writeT (s : State) (i : TSel) (v : St) : State := { s with tReg := s.tReg.set i (stToReg v) }
/-- `W[i] <- buf`. -/
def State.writeW (s : State) (i : WSel) (buf : WBuf) : State := { s with wBuf := s.wBuf.set i buf }
/-- `TFLAG.T <- t`. -/
def State.writeT1 (s : State) (t : Bool) : State := { s with tflag := t }
/-- `RETVAL <- v`. -/
def State.writeRetval (s : State) (v : BitVec 9) : State := { s with retval := v }
/-- `SEED <- v`. -/
def State.writeSeed (s : State) (v : U256) : State := { s with seed := v }
/-- `GCTX[c] <- ctx`. -/
def State.writeG (s : State) (c : GSlot) (ctx : GenCtx) : State := { s with gctx := s.gctx.set c ctx }
/-- `MCTX[c] <- ctx`. -/
def State.writeM (s : State) (c : MSlot) (ctx : MulCtx) : State := { s with mctx := s.mctx.set c ctx }

/-! ### Table primitives (20_memory.md R86 to R89) -/

/-- The table of a generator slot; an unbuilt slot raises F_NOT_BUILT (44_generator.md R260, 60_exceptions.md R334). -/
def GenCtx.table (c : GenCtx) : Except Fault GenTable :=
  match c.prec with
  | some t => .ok t
  | none => .error .notBuilt

/-- The table of a multiply slot; an unbuilt slot raises F_NOT_BUILT (45_dual_mul.md R300, 60_exceptions.md R334). -/
def MulCtx.table (c : MulCtx) : Except Fault MulTable :=
  match c.preG with
  | some t => .ok t
  | none => .error .notBuilt

/-- `TblRead(prec, (j, i))` (20_memory.md R86). -/
def GenTable.read (t : GenTable) (j : Fin 64) (i : Fin 16) : St := t[j][i]

/-- `TblRead(pre_g, i)` (20_memory.md R86). -/
def MulTable.read (t : MulTable) (i : Fin 16384) : St := t[i]

/-- `gen_sel` over the entries of the list, in its order: every entry is read, and conditional move keeps entry `d`
(44_generator.md R264, 20_memory.md R88). The indices read come out in order. -/
def genSelOver (t : GenTable) (j : Fin 64) (d : Fin 16) : List (Fin 16) → St → St × List TblIndex
  | [], sel => (sel, [])
  | i :: rest, sel =>
    let (r, reads) := genSelOver t j d rest (stCmov sel (t.read j i) (i == d))
    (r, .gen j i :: reads)

/-- `gen_sel(prec, j, d)`: all 16 entries, `i = 0..15` (44_generator.md R264, 20_memory.md R88). -/
def genSelect (t : GenTable) (j : Fin 64) (d : Fin 16) : St × List TblIndex :=
  genSelOver t j d (List.finRange 16) ⟨feOfNat 0, feOfNat 0⟩

/-- The index part of `odd_lookup` on a table of `len` entries: `(|d| - 1) / 2`; an even `d`, or an index beyond the
table, raises F_INDEX (20_memory.md R89). -/
def oddIndex (len : Nat) (d : Int) : Except Fault (Fin len) :=
  if d % 2 = 0 then .error .index
  else if h : (d.natAbs - 1) / 2 < len then .ok ⟨(d.natAbs - 1) / 2, h⟩
  else .error .index

/-- The sign part of `odd_lookup`: an identity entry is returned unchanged, another is negated for `d < 0`
(20_memory.md R89). -/
def oddSigned (d : Int) (g : Ge) : Ge := if g.inf then AINF else if 0 < d then g else ⟨g.x, fneg g.y, false⟩

/-! ### Faults (60_exceptions.md R331, R340) -/

/-- The number of a fault code (60_exceptions.md R331). -/
def Fault.code : Fault → Byte
  | .illegal => 0x01
  | .infinity => 0x02
  | .zero => 0x03
  | .notBuilt => 0x04
  | .wnafParam => 0x05
  | .wnafRange => 0x06
  | .drbg => 0x07
  | .index => 0x08

/-- Fault entry: `STATUS.FAULT <- 1`, `FAULTINFO <- (code, command word bits 7:0)`, and nothing else changes
(60_exceptions.md R340). -/
def State.takeFault (s : State) (f : Fault) (op : Byte) : State :=
  { s with fault := true, faultInfo := ⟨f.code, op⟩ }

/-- `ge_of_gej(a)` (40_group_convert.md R160): F_ZERO where `finv(0)` would be needed. -/
def geOfGej (a : Gej) : Except Fault Ge :=
  if needsZeroInverse a then .error .zero else .ok (affineOf a)

/-! ### The end of a command -/

/-- A command that draws nothing and reads no table. -/
def Trace.none : Trace := ⟨0, []⟩

/-- Records the leak of an executed command (00_scope.md R17). The leak of a VT command has a fresh free value. -/
def State.recordLeak (s : State) (i : Instr) (f : Option Fault) (tr : Trace) : State :=
  if leaksFreely i then
    { s with leak := some ⟨encode i, f, tr, some (Config.freeLeak s.freeCount)⟩, freeCount := s.freeCount + 1 }
  else { s with leak := some ⟨encode i, f, tr, .none⟩ }

/-- The state a command leaves: its results, or the fault entry with nothing it computed written (00_scope.md R16,
60_exceptions.md R340); either way with its leak. -/
def afterCommand (i : Instr) (s : State) (tr : Trace) (result : Except Fault State) : State :=
  match result with
  | .ok t => t.recordLeak i .none tr
  | .error f => (s.takeFault f i.opcode).recordLeak i (some f) tr

/-- The end of a command: every command ends in a next state (20_memory.md R90). -/
def finish (i : Instr) (s : State) (tr : Trace) (result : Except Fault State) : Answer :=
  .next (afterCommand i s tr result)

/-- The end of a `CMD` write of an illegal word `w` (60_exceptions.md R332, R340; its leak: log 13). -/
def State.takeIllegal (s : State) (w : Word) : State :=
  { s.takeFault .illegal (w.extractLsb' 0 8) with leak := some ⟨w, some .illegal, Trace.none, .none⟩ }

/-! ### Reset (70_reset_and_hazards.md R370, R371) -/

/-- Reset: all architectural state takes the reset value of a block with this `STATIC_PRECOMP`, from any state
(70_reset_and_hazards.md R370, R371, R374). The model's own fields and the leak already observed stay (log 16). -/
def State.resetBlock (s : State) : State :=
  { State.resetOf s.staticPrecomp with
    leak := s.leak, host := s.host, response := s.response, freeCount := s.freeCount }

end Sys2Proof.Machine
end

