-- ==== Sys2Proof/Machine/Add.lean ====
section
/-! DEFINITION. The meanings of 41_group_add.md: the doubling and the four additions. -/

namespace Sys2Proof.Machine

/-- `J[rd] <- r; F[rc] <- ratio` (R191, R192). -/
def writeWithRatio (s : State) (rd : JSel) (rc : FSel) (r : Gej × Fe) : State :=
  (s.writeJ rd r.1).writeF rc r.2

/-- `GEJ_DBL_VAR J rd, J ra, F rc` (R191). -/
def execGejDblVar (rd ra : JSel) (rc : FSel) (s : State) : Answer :=
  finish (.gejDblVar rd ra rc) s Trace.none (.ok (writeWithRatio s rd rc (gejDouble (s.readJ ra))))

/-- `GEJ_ADD_VAR J rd, J ra, J rb, F rc` (R192). -/
def execGejAddVar (rd ra rb : JSel) (rc : FSel) (s : State) : Answer :=
  finish (.gejAddVar rd ra rb rc) s Trace.none
    (.ok (writeWithRatio s rd rc (gejAdd (s.readJ ra) (s.readJ rb))))

/-- `GEJ_ADD_GE_VAR J rd, J ra, A rb` (R193). -/
def execGejAddGeVar (rd ra : JSel) (rb : ASel) (s : State) : Answer :=
  finish (.gejAddGeVar rd ra rb) s Trace.none (.ok (s.writeJ rd (gejAddGe (s.readJ ra) (s.readA rb))))

/-- `GEJ_ADD_ZINV_VAR J rd, J ra, A rb, F rc` (R194): `F[rc]` is used as given. -/
def execGejAddZinvVar (rd ra : JSel) (rb : ASel) (rc : FSel) (s : State) : Answer :=
  finish (.gejAddZinvVar rd ra rb rc) s Trace.none
    (.ok (s.writeJ rd (gejAddZinv (s.readJ ra) (s.readA rb) (s.readF rc))))

/-- `GEJ_ADD_GE J rd, J ra, A rb` (R195): F_INFINITY if the affine operand is the identity. -/
def execGejAddGe (rd ra : JSel) (rb : ASel) (s : State) : Answer :=
  finish (.gejAddGe rd ra rb) s Trace.none
    (if (s.readA rb).inf then .error .infinity
    else .ok (s.writeJ rd (gejAddGeCt (s.readJ ra) (s.readA rb))))

end Sys2Proof.Machine
end

