-- ==== Sys2Proof/Machine/Convert.lean ====
section
/-! DEFINITION. The meanings of 40_group_convert.md: conversion, negation, validity, rescale, storage form,
conditional move and select, batch normalisation. -/

namespace Sys2Proof.Machine

/-- `GEJ_SET_GE J rd, A ra` (R151). -/
def execGejSetGe (rd : JSel) (ra : ASel) (s : State) : Answer :=
  finish (.gejSetGe rd ra) s Trace.none (.ok (s.writeJ rd (gejOfGe (s.readA ra))))

/-- `A[rd] <- ge_of_gej(J[ra])` (R152, R153); F_ZERO for a finite operand with `z = 0`. -/
def convertTo (s : State) (rd : ASel) (ra : JSel) : Except Fault State :=
  match geOfGej (s.readJ ra) with
  | .ok g => .ok (s.writeA rd g)
  | .error f => .error f

/-- `GE_SET_GEJ A rd, J ra` (R152). -/
def execGeSetGej (rd : ASel) (ra : JSel) (s : State) : Answer :=
  finish (.geSetGej rd ra) s Trace.none (convertTo s rd ra)

/-- `GE_SET_GEJ_VAR A rd, J ra` (R153). -/
def execGeSetGejVar (rd : ASel) (ra : JSel) (s : State) : Answer :=
  finish (.geSetGejVar rd ra) s Trace.none (convertTo s rd ra)

/-- `GE_SET_GEJ_ZINV A rd, J ra, F rc` (R154): `zinv` is used as given. -/
def execGeSetGejZinv (rd : ASel) (ra : JSel) (rc : FSel) (s : State) : Answer :=
  finish (.geSetGejZinv rd ra rc) s Trace.none (.ok (s.writeA rd (geOfGejZinv (s.readJ ra) (s.readF rc))))

/-- The operands `J[first], J[first + 1], …` of a batch (R155: all reads first). -/
def batchOperandsFrom (s : State) (first count : Nat) : List Gej :=
  (List.range count).map fun t => s.readJ (Fin.ofNat 8 (first + t))

/-- `A[first] <- g₀`, `A[first + 1] <- g₁`, … (R155). -/
def writeBatch (s : State) (first : Nat) : List Ge → State
  | [] => s
  | g :: rest => writeBatch (s.writeA (Fin.ofNat 8 first) g) (first + 1) rest

/-- `BATCH_NORM A rd, J ra, N` (R155). A term with a bad count or range, which no word decodes to, raises F_ILLEGAL
as its word would (30_encoding.md R115 (e)). -/
def execBatchNorm (rd : ASel) (ra : JSel) (count : Fin 16) (s : State) : Answer :=
  let inputs := batchOperandsFrom s ra count
  finish (.batchNorm rd ra count) s Trace.none
    (if ¬ BatchRangeOk rd ra count then .error .illegal
    else if inputs.any needsZeroInverse then .error .zero
    else .ok (writeBatch s rd (inputs.map affineOf)))

/-- `GE_NEG A rd, A ra` (R162). -/
def execGeNeg (rd ra : ASel) (s : State) : Answer :=
  finish (.geNeg rd ra) s Trace.none (.ok (s.writeA rd (geNeg (s.readA ra))))

/-- `GEJ_NEG J rd, J ra` (R163). -/
def execGejNeg (rd ra : JSel) (s : State) : Answer :=
  finish (.gejNeg rd ra) s Trace.none (.ok (s.writeJ rd (gejNeg (s.readJ ra))))

/-- `GE_VALID A ra` (R164). -/
def execGeValid (ra : ASel) (s : State) : Answer :=
  finish (.geValid ra) s Trace.none (.ok (s.writeT1 (validFlag (s.readA ra))))

/-- `GEJ_RESCALE J rd, J ra, F rc` (R165): the test `s = 0` comes before the infinity case. -/
def execGejRescale (rd ra : JSel) (rc : FSel) (s : State) : Answer :=
  finish (.gejRescale rd ra rc) s Trace.none
    (if fiszero (s.readF rc) then .error .zero
    else .ok (s.writeJ rd (gejRescale (s.readJ ra) (s.readF rc))))

/-- `GE_TO_ST T rd, A ra` (R156): F_INFINITY for the identity. -/
def execGeToSt (rd : TSel) (ra : ASel) (s : State) : Answer :=
  finish (.geToSt rd ra) s Trace.none
    (if (s.readA ra).inf then .error .infinity
    else .ok (s.writeT rd ⟨(s.readA ra).x, (s.readA ra).y⟩))

/-- `GE_FROM_ST A rd, T ra` (R157). -/
def execGeFromSt (rd : ASel) (ra : TSel) (s : State) : Answer :=
  finish (.geFromSt rd ra) s Trace.none (.ok (s.writeA rd (geOfSt (s.readT ra))))

/-- `ST_CMOV T rd, T ra` (R158): with `T = 0` the destination is rewritten with its own operand value. -/
def execStCmov (rd ra : TSel) (s : State) : Answer :=
  finish (.stCmov rd ra) s Trace.none (.ok (s.writeT rd (stCmov (s.readT rd) (s.readT ra) s.tflag)))

/-- `ST_CSEL T rd, T ra, T rb` (R159): `T = 0` selects the first, `T = 1` the second. -/
def execStCsel (rd ra rb : TSel) (s : State) : Answer :=
  finish (.stCsel rd ra rb) s Trace.none (.ok (s.writeT rd (stCmov (s.readT ra) (s.readT rb) s.tflag)))

end Sys2Proof.Machine
end

