-- ==== Sys2Proof/Machine/Wnaf.lean ====
section
/-! DEFINITION. The windowed-NAF encoder (43_wnaf.md R240) and the meaning of `WNAF` (R241). -/

namespace Sys2Proof.Machine

/-- A digit stream: the digits of positions 0 to 255, and the index of the last nonzero digit plus 1
(10_state.md R38, 43_wnaf.md R240). -/
structure DigitStream where
  digit : Vector Int 256
  count : Nat
  deriving DecidableEq, Repr

/-- The stream with no nonzero digit. -/
def DigitStream.empty : DigitStream := ⟨Vector.replicate 256 0, 0⟩

/-- The loop of `wnaf_encode` (43_wnaf.md R240) from position `bit` on, and the carry it leaves. Each turn moves
`bit` on by at least 1, so `fuel = len` turns reach the end of the buffer. -/
def wnafLoop (s : Nat) (sign : Int) (w len : Nat) :
    (fuel bit carry : Nat) → DigitStream → DigitStream × Nat
  | 0, _, carry, out => (out, carry)
  | fuel + 1, bit, carry, out =>
    if bit < len then
      if sbits s bit 1 = carry then wnafLoop s sign w len fuel (bit + 1) carry out
      else
        let now := min w (len - bit)
        let word := sbits s bit now + carry
        let carry' := word / 2 ^ (w - 1) % 2
        let value : Int := (word : Int) - (carry' : Int) * 2 ^ w
        wnafLoop s sign w len fuel (bit + now) carry'
          ⟨out.digit.setIfInBounds bit (sign * value), bit + 1⟩
    else (out, carry)

/-- `wnaf_encode(a, w, len)` for `2 ≤ w ≤ 31` and `len ≤ 256` (43_wnaf.md R240). -/
def wnafEncode (a : Sc) (w len : Nat) : Except Fault DigitStream :=
  let negative := negativeFlag a
  let s := if negative then (sneg a).val else a.val
  let sign : Int := if negative then -1 else 1
  match wnafLoop s sign w len len 0 0 DigitStream.empty with
  | (out, carry) => if carry ≠ 0 ∨ s / 2 ^ len ≠ 0 then .error .wnafRange else .ok out

/-- The buffer content of a digit stream: all 256 entries, and `bits` (43_wnaf.md R241). -/
def DigitStream.toBuf (d : DigitStream) : WBuf := ⟨d.digit.map digitToWord, BitVec.ofNat 9 d.count⟩

/-- `WNAF W rd, S ra, w, len` (43_wnaf.md R241). -/
def execWnaf (rd : WSel) (ra : SSel) (w : Fin 32) (len : Fin 512) (s : State) : Answer :=
  finish (.wnaf rd ra w len) s Trace.none
    (if w.val < 2 ∨ 256 < len.val then .error .wnafParam
    else
      match wnafEncode (s.readS ra) w len with
      | .ok d => .ok ((s.writeW rd d.toBuf).writeRetval (BitVec.ofNat 9 d.count))
      | .error f => .error f)

end Sys2Proof.Machine
end

