-- ==== Sys2Proof/Machine/DualMul.lean ====
section
/-! DEFINITION. The meanings of 45_dual_mul.md: the multiply context's lifecycle, its signed odd accessor and the
variable-time dual multiplier. -/

namespace Sys2Proof.Machine

/-! ### Build, clone, clear, lookup -/

/-- `MUL_BUILD cx` (R301): a second build of a built slot writes nothing. -/
def execMulBuild (cx : MSlot) (s : State) : Answer :=
  finish (.mulBuild cx) s Trace.none (.ok (if s.mctx[cx].built then s else s.writeM cx .justBuilt))

/-- `MUL_CLONE cx, cs` (R303). -/
def execMulClone (cx cs : MSlot) (s : State) : Answer :=
  finish (.mulClone cx cs) s Trace.none (.ok (s.writeM cx s.mctx[cs]))

/-- `MUL_CLEAR cx` (R304). -/
def execMulClear (cx : MSlot) (s : State) : Answer :=
  finish (.mulClear cx) s Trace.none (.ok (s.writeM cx .unbuilt))

/-- `PREG_LOOKUP A rd, simm16, cx` (R305): F_NOT_BUILT before F_INDEX. -/
def execPregLookup (rd : ASel) (simm16 : BitVec 16) (cx : MSlot) (s : State) : Answer :=
  match s.mctx[cx].table with
  | .error f => finish (.pregLookup rd simm16 cx) s Trace.none (.error f)
  | .ok t =>
    match oddIndex 16384 (sext16 simm16) with
    | .error f => finish (.pregLookup rd simm16 cx) s Trace.none (.error f)
    | .ok idx =>
      finish (.pregLookup rd simm16 cx) s ⟨0, [.mul idx]⟩
        (.ok (s.writeA rd (oddSigned (sext16 simm16) (geOfSt (t.read idx)))))

/-! ### The dual multiplier -/

/-- `odd_multiples_8(a)`: the affine values of `A, 3·A, …, 15·A` (R306); F_ZERO where a conversion meets `z = 0`. -/
def oddMultiples8 (a : Ge) : Except Fault (Vector Ge 8) :=
  let aj : Gej := ⟨a.x, a.y, feOfNat 1, false⟩
  let pj : Vector Gej 8 := ⟨(addChain (gejDouble aj).1 8 aj).toArray, by simp [length_addChain]⟩
  if pj.toList.any needsZeroInverse then .error .zero else .ok (pj.map affineOf)

/-- A digit stream with the table its digits index. -/
structure TableStream (len : Nat) where
  digits : DigitStream
  table : Vector Ge len

/-- The stream for `A`: empty if `A = O` or `na = 0` (R310), when its table is never read. -/
def streamA (a : Ge) (na : Sc) : Except Fault (TableStream 8) :=
  if a.inf ∨ na.val = 0 then .ok ⟨DigitStream.empty, Vector.replicate 8 AINF⟩
  else
    match wnafEncode na Config.windowA 256 with
    | .error f => .error f
    | .ok wa =>
      match oddMultiples8 a with
      | .error f => .error f
      | .ok preA => .ok ⟨wa, preA⟩

/-- The stream for `G`: empty if `ng = 0` (R310). -/
def streamG (ng : Sc) : Except Fault DigitStream :=
  if ng.val = 0 then .ok DigitStream.empty else wnafEncode ng Config.windowG 256

/-- The digit of a stream at position `i`, 0 beyond its last digit (R310: `i < bits and w[i] != 0`). -/
def DigitStream.at (d : DigitStream) (i : Nat) : Int := if i < d.count then d.digit.getD i 0 else 0

/-- Adds the table entry of the `A` stream's digit at position `i` (R310). -/
def addDigitA (a : TableStream 8) (i : Nat) (r : Gej) : Except Fault Gej :=
  if a.digits.at i = 0 then .ok r
  else
    match oddIndex 8 (a.digits.at i) with
    | .error f => .error f
    | .ok idx => .ok (gejAddGe r (oddSigned (a.digits.at i) a.table[idx]))

/-- Adds the table entry of the `G` stream's digit at position `i` (R310), and the index read. -/
def addDigitG (t : MulTable) (g : DigitStream) (i : Nat) (r : Gej) : Except Fault (Gej × List TblIndex) :=
  if g.at i = 0 then .ok (r, [])
  else
    match oddIndex 16384 (g.at i) with
    | .error f => .error f
    | .ok idx => .ok (gejAddGe r (oddSigned (g.at i) (geOfSt (t.read idx))), [.mul idx])

/-- The loop of `DUAL_MUL` over the positions `count - 1` down to 0 (R310): double, add the `A` digit, add the `G`
digit; and the table indices read. -/
def dualLoop (t : MulTable) (a : TableStream 8) (g : DigitStream) :
    (count : Nat) → Gej → Except Fault (Gej × List TblIndex)
  | 0, r => .ok (r, [])
  | i + 1, r =>
    match addDigitA a i (gejDouble r).1 with
    | .error f => .error f
    | .ok r1 =>
      match addDigitG t g i r1 with
      | .error f => .error f
      | .ok (r2, reads) =>
        match dualLoop t a g i r2 with
        | .error f => .error f
        | .ok (r3, reads') => .ok (r3, reads ++ reads')

/-- `na·A + ng·G` as `DUAL_MUL` computes it (R310). -/
def dualMulCore (t : MulTable) (a : Ge) (na ng : Sc) : Except Fault (Gej × List TblIndex) :=
  match streamA a na with
  | .error f => .error f
  | .ok wa =>
    match streamG ng with
    | .error f => .error f
    | .ok wg => dualLoop t wa wg (max wa.digits.count wg.count) JINF

/-- `DUAL_MUL J rd, A ra, S rb, S rc, cx` (R310). -/
def execDualMul (rd : JSel) (ra : ASel) (rb rc : SSel) (cx : MSlot) (s : State) : Answer :=
  match s.mctx[cx].table with
  | .error f => finish (.dualMul rd ra rb rc cx) s Trace.none (.error f)
  | .ok t =>
    match dualMulCore t (s.readA ra) (s.readS rb) (s.readS rc) with
    | .error f => finish (.dualMul rd ra rb rc cx) s Trace.none (.error f)
    | .ok (r, reads) => finish (.dualMul rd ra rb rc cx) s ⟨0, reads⟩ (.ok (s.writeJ rd r))

end Sys2Proof.Machine
end

