-- ==== Sys2Proof/Machine/Generator.lean ====
section
/-! DEFINITION. The meanings of 44_generator.md: the generator context's lifecycle, its table accessors, the
constant-time multiplier and the blinding refresh. -/

namespace Sys2Proof.Machine

/-! ### Build, clone, clear -/

/-- `GEN_BUILD cx` (R261): a second build of a built slot writes nothing. -/
def execGenBuild (cx : GSlot) (s : State) : Answer :=
  finish (.genBuild cx) s Trace.none (.ok (if s.gctx[cx].built then s else s.writeG cx .justBuilt))

/-- `GEN_CLONE cx, cs` (R269): slot `cx` becomes a copy of slot `cs`, whatever it held. -/
def execGenClone (cx cs : GSlot) (s : State) : Answer :=
  finish (.genClone cx cs) s Trace.none (.ok (s.writeG cx s.gctx[cs]))

/-- `GEN_CLEAR cx` (R270). -/
def execGenClear (cx : GSlot) (s : State) : Answer :=
  finish (.genClear cx) s Trace.none (.ok (s.writeG cx .unbuilt))

/-! ### Table accessors -/

/-- `GEN_SEL T rd, S ra, j, cx` (R264): all 16 entries of group `j` are read. -/
def execGenSel (rd : TSel) (ra : SSel) (j : Fin 64) (cx : GSlot) (s : State) : Answer :=
  match s.gctx[cx].table with
  | .error f => finish (.genSel rd ra j cx) s Trace.none (.error f)
  | .ok t =>
    let sel := genSelect t j (window (s.readS ra) j)
    finish (.genSel rd ra j cx) s ⟨0, sel.2⟩ (.ok (s.writeT rd sel.1))

/-- `GEN_RD T rd, i, j, cx` (R265): direct indexing. -/
def execGenRd (rd : TSel) (i : Fin 16) (j : Fin 64) (cx : GSlot) (s : State) : Answer :=
  match s.gctx[cx].table with
  | .error f => finish (.genRd rd i j cx) s Trace.none (.error f)
  | .ok t => finish (.genRd rd i j cx) s ⟨0, [.gen j i]⟩ (.ok (s.writeT rd (t.read j i)))

/-! ### The multiplier -/

/-- The window loop of `gen_mul_core` over the windows of the list, in its order (R267), with the table indices it
reads. -/
def genMulOver (t : GenTable) (gnb : Sc) : List (Fin 64) → Gej → Gej × List TblIndex
  | [], r => (r, [])
  | j :: rest, r =>
    let sel := genSelect t j (window gnb j)
    let tail := genMulOver t gnb rest (gejAddGeCt r (geOfSt sel.1))
    (tail.1, sel.2 ++ tail.2)

/-- `gen_mul_core(prec, initial, blind, k)`: windows 0 to 63 of `k - blind`, onto `initial` (R267). -/
def genMulCore (t : GenTable) (initial : Gej) (blind k : Sc) : Gej × List TblIndex :=
  genMulOver t (ssub k blind) (List.finRange 64) initial

/-- `GEN_MUL J rd, S ra, cx` (R267). -/
def execGenMul (rd : JSel) (ra : SSel) (cx : GSlot) (s : State) : Answer :=
  match s.gctx[cx].table with
  | .error f => finish (.genMul rd ra cx) s Trace.none (.error f)
  | .ok t =>
    let r := genMulCore t s.gctx[cx].initial s.gctx[cx].blind (s.readS ra)
    finish (.genMul rd ra cx) s ⟨0, r.2⟩ (.ok (s.writeJ rd r.1))

/-! ### The blinding refresh -/

/-- One sampling loop of `GEN_BLIND` (R266): at most `tries` more candidates, the first of them output number `t`; a
candidate `c` is kept if `0 < c < bound`. Answers the candidate, if any, and the number of the next output. -/
def sampleBelow (draw : Nat → Nat) (bound : Nat) : (tries t : Nat) → Option (Fin bound) × Nat
  | 0, t => (none, t)
  | tries + 1, t =>
    if h : 0 < draw t ∧ draw t < bound then (some ⟨draw t, h.2⟩, t + 1)
    else sampleBelow draw bound tries (t + 1)

/-- The two sampling loops (R266, steps 1 and 2): a field element, then a scalar, the output counter running on. A loop
that rejects `cap` candidates raises F_DRBG. Answers the number of outputs drawn as well. -/
def blindDraws (draw : Nat → Nat) (cap : Nat) : Except Fault (Fe × Sc) × Nat :=
  match sampleBelow draw Config.p cap 0 with
  | (none, t) => (.error .drbg, t)
  | (some scale, t) =>
    match sampleBelow draw Config.n cap t with
    | (none, t') => (.error .drbg, t')
    | (some b, t') => (.ok (scale, b), t')

/-- `key = be32(ctx.blind) ‖ be32(SEED)` (R266). -/
def blindKey (blind : Sc) (seed : U256) : Vector Byte 64 := be32 (scToRaw blind) ++ be32 seed

/-- The new context of step 4 (R266): `initial` is `b·G` computed under the old blinding from the rescaled
accumulator, `blind` is `b`; and the table indices read. -/
def reblind (t : GenTable) (ctx : GenCtx) (scale : Fe) (b : Sc) : GenCtx × List TblIndex :=
  let gb := genMulCore t (gejRescale ctx.initial scale) ctx.blind b
  ({ ctx with initial := gb.1, blind := b }, gb.2)

/-- `GEN_BLIND cx` with the outputs `draw` of the DRBG and the cap `cap` (R266). -/
def blindWith (draw : Nat → Nat) (cap : Nat) (cx : GSlot) (s : State) : Answer :=
  match s.gctx[cx].table with
  | .error f => finish (.genBlind cx) s Trace.none (.error f)
  | .ok t =>
    match blindDraws draw cap with
    | (.error f, drawn) => finish (.genBlind cx) s ⟨drawn, []⟩ (.error f)
    | (.ok (scale, b), drawn) =>
      let c := reblind t s.gctx[cx] scale b
      finish (.genBlind cx) s ⟨drawn, c.2⟩ (.ok ((s.writeG cx c.1).writeSeed 0))

/-- `GEN_BLIND cx` (R266). -/
def execGenBlind (cx : GSlot) (s : State) : Answer :=
  blindWith (fun t => intBe (Config.drbg (blindKey s.gctx[cx].blind s.seed) t)) Config.retryCap cx s

end Sys2Proof.Machine
end

