-- ==== Sys2Proof/Machine/Scalar.lean ====
section
/-! DEFINITION. The meanings of 42_scalar.md: arithmetic mod `n`, the two inverses and parity. -/

namespace Sys2Proof.Machine

/-- `SC_ADD S rd, S ra, S rb` (R221). -/
def execScAdd (rd ra rb : SSel) (s : State) : Answer :=
  finish (.scAdd rd ra rb) s Trace.none (.ok (s.writeS rd (sadd (s.readS ra) (s.readS rb))))

/-- `SC_MUL S rd, S ra, S rb` (R222). -/
def execScMul (rd ra rb : SSel) (s : State) : Answer :=
  finish (.scMul rd ra rb) s Trace.none (.ok (s.writeS rd (smul (s.readS ra) (s.readS rb))))

/-- `SC_NEG S rd, S ra` (R223). -/
def execScNeg (rd ra : SSel) (s : State) : Answer :=
  finish (.scNeg rd ra) s Trace.none (.ok (s.writeS rd (sneg (s.readS ra))))

/-- `S[rd] <- sinv(S[ra])`, F_ZERO for a zero operand (R224, R225). -/
def invertTo (s : State) (rd ra : SSel) : Except Fault State :=
  if (s.readS ra).val = 0 then .error .zero else .ok (s.writeS rd (sinv (s.readS ra)))

/-- `SC_INV S rd, S ra` (R224). -/
def execScInv (rd ra : SSel) (s : State) : Answer :=
  finish (.scInv rd ra) s Trace.none (invertTo s rd ra)

/-- `SC_INV_VAR S rd, S ra` (R225): the result and the fault are those of `SC_INV`. -/
def execScInvVar (rd ra : SSel) (s : State) : Answer :=
  finish (.scInvVar rd ra) s Trace.none (invertTo s rd ra)

/-- `SC_IS_EVEN S ra` (R226). -/
def execScIsEven (ra : SSel) (s : State) : Answer :=
  finish (.scIsEven ra) s Trace.none (.ok (s.writeT1 (evenFlag (s.readS ra))))

end Sys2Proof.Machine
end

