-- ==== Sys2Proof/Machine/Dispatch.lean ====
section
/-! DEFINITION. One arm per command: the meaning of each row of the opcode table (30_encoding.md R114). -/

namespace Sys2Proof.Machine

/-- What a command does when it is executed (30_encoding.md R110): each arm is one direct call. -/
def exec (i : Instr) (s : State) : Host.Outcome State Fault Refusal :=
  match i with
  | .gejSetGe rd ra => Sys2Proof.Machine.execGejSetGe rd ra s
  | .geSetGej rd ra => Sys2Proof.Machine.execGeSetGej rd ra s
  | .geSetGejVar rd ra => Sys2Proof.Machine.execGeSetGejVar rd ra s
  | .geSetGejZinv rd ra rc => Sys2Proof.Machine.execGeSetGejZinv rd ra rc s
  | .batchNorm rd ra count => Sys2Proof.Machine.execBatchNorm rd ra count s
  | .geNeg rd ra => Sys2Proof.Machine.execGeNeg rd ra s
  | .gejNeg rd ra => Sys2Proof.Machine.execGejNeg rd ra s
  | .geValid ra => Sys2Proof.Machine.execGeValid ra s
  | .gejRescale rd ra rc => Sys2Proof.Machine.execGejRescale rd ra rc s
  | .geToSt rd ra => Sys2Proof.Machine.execGeToSt rd ra s
  | .geFromSt rd ra => Sys2Proof.Machine.execGeFromSt rd ra s
  | .stCmov rd ra => Sys2Proof.Machine.execStCmov rd ra s
  | .stCsel rd ra rb => Sys2Proof.Machine.execStCsel rd ra rb s
  | .gejDblVar rd ra rc => Sys2Proof.Machine.execGejDblVar rd ra rc s
  | .gejAddVar rd ra rb rc => Sys2Proof.Machine.execGejAddVar rd ra rb rc s
  | .gejAddGeVar rd ra rb => Sys2Proof.Machine.execGejAddGeVar rd ra rb s
  | .gejAddZinvVar rd ra rb rc => Sys2Proof.Machine.execGejAddZinvVar rd ra rb rc s
  | .gejAddGe rd ra rb => Sys2Proof.Machine.execGejAddGe rd ra rb s
  | .scAdd rd ra rb => Sys2Proof.Machine.execScAdd rd ra rb s
  | .scMul rd ra rb => Sys2Proof.Machine.execScMul rd ra rb s
  | .scNeg rd ra => Sys2Proof.Machine.execScNeg rd ra s
  | .scInv rd ra => Sys2Proof.Machine.execScInv rd ra s
  | .scInvVar rd ra => Sys2Proof.Machine.execScInvVar rd ra s
  | .scIsEven ra => Sys2Proof.Machine.execScIsEven ra s
  | .wnaf rd ra w len => Sys2Proof.Machine.execWnaf rd ra w len s
  | .genBuild cx => Sys2Proof.Machine.execGenBuild cx s
  | .genBlind cx => Sys2Proof.Machine.execGenBlind cx s
  | .genMul rd ra cx => Sys2Proof.Machine.execGenMul rd ra cx s
  | .genClone cx cs => Sys2Proof.Machine.execGenClone cx cs s
  | .genClear cx => Sys2Proof.Machine.execGenClear cx s
  | .genSel rd ra j cx => Sys2Proof.Machine.execGenSel rd ra j cx s
  | .genRd rd e j cx => Sys2Proof.Machine.execGenRd rd e j cx s
  | .mulBuild cx => Sys2Proof.Machine.execMulBuild cx s
  | .mulClone cx cs => Sys2Proof.Machine.execMulClone cx cs s
  | .mulClear cx => Sys2Proof.Machine.execMulClear cx s
  | .pregLookup rd simm16 cx => Sys2Proof.Machine.execPregLookup rd simm16 cx s
  | .dualMul rd ra rb rc cx => Sys2Proof.Machine.execDualMul rd ra rb rc cx s

end Sys2Proof.Machine
end

