-- ==== Sys2Proof/Machine/HostMap.lean ====
section
/-! DEFINITION. The host register map (20_memory.md R81): which register word an offset names, what a read of it
returns and what a write stores (R83, R84). -/

namespace Sys2Proof.Machine

/-- A word of the host register space (20_memory.md R81). `k` numbers the eight words of a 256-bit value, the least
significant first (R84). -/
inductive HostReg where
  | cmd
  | status
  | faultInfo
  | ctxStat
  | tflag
  | retval
  | ctrl
  | cfg
  | seed (k : Fin 8)
  | s (i : SSel) (k : Fin 8)
  | f (i : FSel) (k : Fin 8)
  | aX (i : ASel) (k : Fin 8)
  | aY (i : ASel) (k : Fin 8)
  | aInf (i : ASel)
  | jX (i : JSel) (k : Fin 8)
  | jY (i : JSel) (k : Fin 8)
  | jZ (i : JSel) (k : Fin 8)
  | jInf (i : JSel)
  | tX (i : TSel) (k : Fin 8)
  | tY (i : TSel) (k : Fin 8)
  | wDigit (b : WSel) (i : Fin 256)
  | wBits (b : WSel)
  deriving DecidableEq, Repr

/-- The access column of 20_memory.md R81. -/
inductive HostAccessKind where
  | readOnly
  | writeOnly
  | readWrite
  deriving DecidableEq, Repr

/-- The access column of 20_memory.md R81. -/
def HostReg.kind : HostReg → HostAccessKind
  | .cmd | .ctrl | .seed _ => .writeOnly
  | .status | .faultInfo | .ctxStat | .retval | .cfg | .wDigit .. | .wBits _ => .readOnly
  | .tflag | .s .. | .f .. | .aX .. | .aY .. | .aInf _ | .jX .. | .jY .. | .jZ .. | .jInf _ | .tX .. | .tY .. =>
    .readWrite

/-- The byte offset of a register word (20_memory.md R81). -/
def HostReg.offset : HostReg → Nat
  | .cmd => 0x0000
  | .status => 0x0004
  | .faultInfo => 0x0008
  | .ctxStat => 0x000C
  | .tflag => 0x0010
  | .retval => 0x0014
  | .ctrl => 0x0018
  | .cfg => 0x001C
  | .seed k => 0x0020 + 4 * k
  | .s i k => 0x0100 + 0x20 * i + 4 * k
  | .f i k => 0x0200 + 0x20 * i + 4 * k
  | .aX i k => 0x0400 + 0x80 * i + 4 * k
  | .aY i k => 0x0400 + 0x80 * i + 0x20 + 4 * k
  | .aInf i => 0x0400 + 0x80 * i + 0x40
  | .jX i k => 0x0800 + 0x80 * i + 4 * k
  | .jY i k => 0x0800 + 0x80 * i + 0x20 + 4 * k
  | .jZ i k => 0x0800 + 0x80 * i + 0x40 + 4 * k
  | .jInf i => 0x0800 + 0x80 * i + 0x60
  | .tX i k => 0x0C00 + 0x40 * i + 4 * k
  | .tY i k => 0x0C00 + 0x40 * i + 0x20 + 4 * k
  | .wDigit b i => 0x1000 + 0x400 * b + 4 * i
  | .wBits b => 0x1800 + 4 * b

/-- The word of an eight-word value at an offset `o` from its first byte. -/
def wordIndex (o : Nat) : Fin 8 := Fin.ofNat 8 (o / 4)

/-- The word of `A[i]` at an offset `o` from the register's first byte (20_memory.md R81). -/
def locateA (i : ASel) (o : Nat) : Option HostReg :=
  if o < 0x20 then some (.aX i (wordIndex o))
  else if o < 0x40 then some (.aY i (wordIndex (o - 0x20)))
  else if o < 0x44 then some (.aInf i)
  else none

/-- The word of `J[i]` at an offset `o` from the register's first byte (20_memory.md R81). -/
def locateJ (i : JSel) (o : Nat) : Option HostReg :=
  if o < 0x20 then some (.jX i (wordIndex o))
  else if o < 0x40 then some (.jY i (wordIndex (o - 0x20)))
  else if o < 0x60 then some (.jZ i (wordIndex (o - 0x40)))
  else if o < 0x64 then some (.jInf i)
  else none

/-- The word of `T[i]` at an offset `o` from the register's first byte (20_memory.md R81). -/
def locateT (i : TSel) (o : Nat) : HostReg :=
  if o < 0x20 then .tX i (wordIndex o) else .tY i (wordIndex (o - 0x20))

/-- The eight single registers at the bottom of the map (20_memory.md R81). -/
def locateControl : Nat → Option HostReg
  | 0 => some .cmd
  | 1 => some .status
  | 2 => some .faultInfo
  | 3 => some .ctxStat
  | 4 => some .tflag
  | 5 => some .retval
  | 6 => some .ctrl
  | 7 => some .cfg
  | _ => none

/-- The register word at an aligned offset; `none` for a reserved offset (20_memory.md R81, R96). -/
def locate (offset : Nat) : Option HostReg :=
  if offset < 0x0020 then locateControl (offset / 4)
  else if offset < 0x0040 then some (.seed (wordIndex (offset - 0x0020)))
  else if offset < 0x0100 then none
  else if offset < 0x0200 then
    some (.s (Fin.ofNat 8 ((offset - 0x0100) / 0x20)) (wordIndex ((offset - 0x0100) % 0x20)))
  else if offset < 0x0280 then
    some (.f (Fin.ofNat 4 ((offset - 0x0200) / 0x20)) (wordIndex ((offset - 0x0200) % 0x20)))
  else if offset < 0x0400 then none
  else if offset < 0x0800 then
    locateA (Fin.ofNat 8 ((offset - 0x0400) / 0x80)) ((offset - 0x0400) % 0x80)
  else if offset < 0x0C00 then
    locateJ (Fin.ofNat 8 ((offset - 0x0800) / 0x80)) ((offset - 0x0800) % 0x80)
  else if offset < 0x0D00 then
    some (locateT (Fin.ofNat 4 ((offset - 0x0C00) / 0x40)) ((offset - 0x0C00) % 0x40))
  else if offset < 0x1000 then none
  else if offset < 0x1800 then
    some (.wDigit (Fin.ofNat 2 ((offset - 0x1000) / 0x400)) (Fin.ofNat 256 ((offset - 0x1000) % 0x400 / 4)))
  else if offset < 0x1808 then some (.wBits (Fin.ofNat 2 ((offset - 0x1800) / 4)))
  else none

/-- Word `k` of a 256-bit value: bits `32k + 31 : 32k` (20_memory.md R84). -/
def getWord (v : U256) (k : Fin 8) : Word := v.extractLsb' (32 * k) 32

/-- A 256-bit value with its word `k` replaced (20_memory.md R84). -/
def setWord (v : U256) (k : Fin 8) (w : Word) : U256 :=
  (v &&& ~~~((0xFFFFFFFF : U256) <<< (32 * k.val))) ||| (w.zeroExtend 256 <<< (32 * k.val))

/-- One bit as a word: bits 31:1 read as 0 (20_memory.md R81). -/
def bitWord (b : Bool) : Word := if b then 1 else 0

/-- `CTXSTAT` (10_state.md R47): bit `c` is `GCTX[c].built`, bit `16 + c` is `MCTX[c].built`. -/
def ctxStatWord (s : State) : Word :=
  let bitsOf (l : List Bool) : Nat := l.foldr (fun b acc => b.toNat + 2 * acc) 0
  BitVec.ofNat 32
    (bitsOf (s.gctx.toList.map GenCtx.built) + 2 ^ 16 * bitsOf (s.mctx.toList.map MulCtx.built))

/-- What a read of a register word returns (20_memory.md R83): the stored bits, or 0 for a write-only word. -/
def loadReg (s : State) : HostReg → Word
  | .cmd => 0
  | .status => bitWord s.fault
  | .faultInfo => s.faultInfo.code.zeroExtend 32 ||| (s.faultInfo.op.zeroExtend 32 <<< 8)
  | .ctxStat => ctxStatWord s
  | .tflag => bitWord s.tflag
  | .retval => s.retval.zeroExtend 32
  | .ctrl => 0
  | .cfg => bitWord s.staticPrecomp
  | .seed _ => 0
  | .s i k => getWord s.sRaw[i] k
  | .f i k => getWord s.fRaw[i] k
  | .aX i k => getWord s.aReg[i].x k
  | .aY i k => getWord s.aReg[i].y k
  | .aInf i => bitWord s.aReg[i].inf
  | .jX i k => getWord s.jReg[i].x k
  | .jY i k => getWord s.jReg[i].y k
  | .jZ i k => getWord s.jReg[i].z k
  | .jInf i => bitWord s.jReg[i].inf
  | .tX i k => getWord s.tReg[i].x k
  | .tY i k => getWord s.tReg[i].y k
  | .wDigit b i => s.wBuf[b].digit[i]
  | .wBits b => s.wBuf[b].bits.zeroExtend 32

/-- Bit 0 of a written word; bits 31:1 of a one-bit register are ignored (20_memory.md R81). -/
def lowBit (w : Word) : Bool := w.getLsbD 0

/-- What a write stores (20_memory.md R83): the 32 bits unchanged, and nothing for a read-only word. `CMD` and
`CTRL` store nothing either; their side effects are in HostPort.lean. -/
def storeReg (s : State) (r : HostReg) (w : Word) : State :=
  match r with
  | .cmd | .ctrl => s
  | .status | .faultInfo | .ctxStat | .retval | .cfg | .wDigit .. | .wBits _ => s
  | .tflag => { s with tflag := lowBit w }
  | .seed k => { s with seed := setWord s.seed k w }
  | .s i k => { s with sRaw := s.sRaw.set i (setWord s.sRaw[i] k w) }
  | .f i k => { s with fRaw := s.fRaw.set i (setWord s.fRaw[i] k w) }
  | .aX i k => { s with aReg := s.aReg.set i { s.aReg[i] with x := setWord s.aReg[i].x k w } }
  | .aY i k => { s with aReg := s.aReg.set i { s.aReg[i] with y := setWord s.aReg[i].y k w } }
  | .aInf i => { s with aReg := s.aReg.set i { s.aReg[i] with inf := lowBit w } }
  | .jX i k => { s with jReg := s.jReg.set i { s.jReg[i] with x := setWord s.jReg[i].x k w } }
  | .jY i k => { s with jReg := s.jReg.set i { s.jReg[i] with y := setWord s.jReg[i].y k w } }
  | .jZ i k => { s with jReg := s.jReg.set i { s.jReg[i] with z := setWord s.jReg[i].z k w } }
  | .jInf i => { s with jReg := s.jReg.set i { s.jReg[i] with inf := lowBit w } }
  | .tX i k => { s with tReg := s.tReg.set i { s.tReg[i] with x := setWord s.tReg[i].x k w } }
  | .tY i k => { s with tReg := s.tReg.set i { s.tReg[i] with y := setWord s.tReg[i].y k w } }

end Sys2Proof.Machine
end

