-- ==== Sys2Proof/Machine/HostPort.lean ====
section
/-! DEFINITION. The host port: what each host access does (20_memory.md R83, R85, R96), the `CMD` write that executes
a command (30_encoding.md R110) and the `CTRL` write that resets (10_state.md R48). -/

namespace Sys2Proof.Machine

/-- Answers an access: `CMD` writes and plain accesses alike leave the response the host sees (log 2). -/
def State.respond (s : State) (r : Response) : State := { s with response := r }

/-- Whether an access is admitted at all: 32 bits at a multiple of 4 (20_memory.md R85). -/
def admitted (width : Nat) (offset : BitVec 13) : Bool := width == 32 && offset.toNat % 4 == 0

/-- The register word an access names; `none` where the access is refused (20_memory.md R85, R96). -/
def target (width : Nat) (offset : BitVec 13) : Option HostReg :=
  if admitted width offset then locate offset.toNat else none

/-- A write of `w` to `CMD`: ignored completely in the fault state (60_exceptions.md R341), F_ILLEGAL for an illegal
word (R332), else the command (30_encoding.md R110). -/
def cmdWrite (w : Word) (s : State) : Answer :=
  if s.fault then .next s
  else
    match decode w with
    | .error _ => .next (s.takeIllegal w)
    | .ok i => exec i s

/-- A write of `w` to `CTRL`: a reset if bit 0 is set, in every state (10_state.md R48, 70_reset_and_hazards.md R370). -/
def ctrlWrite (w : Word) (s : State) : State := if lowBit w then s.resetBlock else s

/-- A host read (20_memory.md R83): the block's state does not change. -/
def hostRead (width : Nat) (offset : BitVec 13) (s : State) : Answer :=
  match target width offset with
  | none => .next (s.respond .busError)
  | some r => .next (s.respond (.data (loadReg s r)))

/-- A host write (20_memory.md R83, R96): in the fault state only `CTRL` has an effect. -/
def hostWrite (width : Nat) (offset : BitVec 13) (w : Word) (s : State) : Answer :=
  match target width offset with
  | none => .next (s.respond .busError)
  | some .cmd => cmdWrite w (s.respond .accepted)
  | some .ctrl => .next (ctrlWrite w (s.respond .accepted))
  | some r => .next (if s.fault then s.respond .accepted else storeReg (s.respond .accepted) r w)

/-- One host event (20_memory.md R91). -/
def hostAccess (a : HostAccess) (s : State) : Answer :=
  match a with
  | .read width offset => hostRead width offset s
  | .write width offset data => hostWrite width offset data s
  | .hardReset => .next (s.resetBlock.respond .accepted)

/-- Takes the oldest access of the stream and performs it; with none pending the block holds its state
(20_memory.md R91, 70_reset_and_hazards.md R391). -/
def takeAccess (s : State) : Answer :=
  match s.host with
  | [] => .next s
  | a :: rest => hostAccess a { s with host := rest }

/-- The write of a command word to `CMD`, as the host makes it. -/
def cmdAccess (w : Word) : HostAccess := .write 32 0 w

/-- `s` with a `CMD` write of the low `nbits` bits of `w` as the host's next access. -/
def withCommand (s : State) (nbits w : Nat) : State :=
  { s with host := cmdAccess (BitVec.ofNat 32 (w % 2 ^ nbits)) :: s.host }

end Sys2Proof.Machine
end

