-- ==== Sys2Proof/Machine/Step.lean ====
section
/-! DEFINITION. One step: the block takes the host's next access (20_memory.md R90, R91). -/

namespace Sys2Proof.Machine

/-- One step of the machine. -/
def step (s : State) : Host.Outcome State Fault Refusal := takeAccess s

/-- `s` with the command word `w` as the very next access of the host: the block fetches nothing (10_state.md R40),
so a command comes to run by being written to `CMD` (log 1). -/
def State.withFetchWord (s : State) (nbits w : Nat) : State := withCommand s nbits w

end Sys2Proof.Machine
end

