-- ==== Sys2Proof/Safety.lean ====
section
/-! DEFINITION. The terms the claims use, written from the spec beside the model: what it means that a command completes,
raises a fault or is constant time; which words are illegal; what a command reads, writes and may raise; what a host
access does; canonical contents and the invariant of every reachable state; the rules' coordinate formulas as integer
polynomials reduced once; and the group the points stand for. -/

namespace Sys2Proof.Machine

/-! ### What a command did -/

/-- The architectural state (10_state.md R30) and `STATIC_PRECOMP` alone: `leak` and the model's own fields wiped. -/
def State.arch (s : State) : State := { s with leak := none, host := [], response := .none, freeCount := 0 }

/-- Executing `i` from `s` answers a next state whose architectural state is that of `after`; the host's stream and
the response it sees are untouched. -/
def Completes (i : Instr) (s after : State) : Prop :=
  ∃ t, exec i s = .next t ∧ t.arch = after.arch ∧ t.host = s.host ∧ t.response = s.response

/-- Executing `i` from `s` ends in the fault entry with this code (60_exceptions.md R340): `STATUS.FAULT`,
`FAULTINFO.CODE` and `FAULTINFO.OP` (bits 7:0 of the command word) are written and nothing else. -/
def RaisesFault (i : Instr) (s : State) (code : Byte) : Prop :=
  Completes i s { s with fault := true, faultInfo := ⟨code, (encode i).extractLsb' 0 8⟩ }

/-- The fault a state's last executed command is recorded to have raised. -/
def State.leakFault (s : State) : Option Fault := s.leak.bind (·.fault)

/-- Class CT (00_scope.md R17): the leak of an executed command is a function of the command and of the fault raised. -/
def ConstantTime (i : Instr) : Prop :=
  ∀ s s' t t', exec i s = .next t → exec i s' = .next t' → t.leakFault = t'.leakFault → t.leak = t'.leak

/-- The number of DRBG outputs a state's last executed command drew (44_generator.md R266). -/
def State.leakDraws (s : State) : Option Nat := s.leak.map (·.trace.draws)

/-- The table indices a state's last executed command read, in order (20_memory.md R86). -/
def State.leakReads (s : State) : Option (List TblIndex) := s.leak.map (·.trace.reads)

/-- `w` is the word of the command `i`: it is what `i` encodes to, and it decodes to `i`. -/
def HasWord (i : Instr) (w : Nat) : Prop := (encode i).toNat = w ∧ decode (BitVec.ofNat 32 w) = .ok i

/-! ### A state with one register or slot replaced, and everything else as it was -/

/-- `s` with the content `v` in `S[i]`. -/
def State.putS (s : State) (i : SSel) (v : U256) : State := { s with sRaw := s.sRaw.set i v }
/-- `s` with the content `v` in `F[i]`. -/
def State.putF (s : State) (i : FSel) (v : U256) : State := { s with fRaw := s.fRaw.set i v }
/-- `s` with the content `v` in `A[i]`. -/
def State.putA (s : State) (i : ASel) (v : AReg) : State := { s with aReg := s.aReg.set i v }
/-- `s` with the content `v` in `J[i]`. -/
def State.putJ (s : State) (i : JSel) (v : JReg) : State := { s with jReg := s.jReg.set i v }
/-- `s` with the content `v` in `T[i]`. -/
def State.putT (s : State) (i : TSel) (v : TReg) : State := { s with tReg := s.tReg.set i v }
/-- `s` with the context `v` in `GCTX[c]`. -/
def State.putG (s : State) (c : GSlot) (v : GenCtx) : State := { s with gctx := s.gctx.set c v }
/-- `s` with the context `v` in `MCTX[c]`. -/
def State.putM (s : State) (c : MSlot) (v : MulCtx) : State := { s with mctx := s.mctx.set c v }

/-! ### Illegal words (30_encoding.md R115) -/

/-- A row of the opcode map (30_encoding.md R114) as R115 reads it: the fields that must be 0, each as (lowest bit,
number of bits), and the fields that must stay below a limit, each as (lowest bit, number of bits, limit). -/
structure OpcodeRow where
  op : Nat
  zeros : List (Nat × Nat)
  limits : List (Nat × Nat × Nat)
  deriving DecidableEq, Repr

/-- The 37 opcodes with the fields of their formats (30_encoding.md R111, R112, R114). -/
def opcodeRows : List OpcodeRow :=
  [⟨0x10, [(16, 4), (20, 4), (24, 4), (28, 2), (30, 2)], [(8, 4, 8), (12, 4, 8)]⟩,
   ⟨0x11, [(16, 4), (20, 4), (24, 4), (28, 2), (30, 2)], [(8, 4, 8), (12, 4, 8)]⟩,
   ⟨0x12, [(16, 4), (20, 4), (24, 4), (28, 2), (30, 2)], [(8, 4, 8), (12, 4, 8)]⟩,
   ⟨0x13, [(16, 4), (24, 4), (28, 2), (30, 2)], [(8, 4, 8), (12, 4, 8), (20, 4, 4)]⟩,
   ⟨0x14, [(20, 4), (24, 4), (28, 2), (30, 2)], [(8, 4, 8), (12, 4, 8)]⟩,
   ⟨0x15, [(16, 4), (20, 4), (24, 4), (28, 2), (30, 2)], [(8, 4, 8), (12, 4, 8)]⟩,
   ⟨0x16, [(16, 4), (20, 4), (24, 4), (28, 2), (30, 2)], [(8, 4, 8), (12, 4, 8)]⟩,
   ⟨0x17, [(8, 4), (16, 4), (20, 4), (24, 4), (28, 2), (30, 2)], [(12, 4, 8)]⟩,
   ⟨0x18, [(16, 4), (24, 4), (28, 2), (30, 2)], [(8, 4, 8), (12, 4, 8), (20, 4, 4)]⟩,
   ⟨0x19, [(16, 4), (20, 4), (24, 4), (28, 2), (30, 2)], [(8, 4, 4), (12, 4, 8)]⟩,
   ⟨0x1A, [(16, 4), (20, 4), (24, 4), (28, 2), (30, 2)], [(8, 4, 8), (12, 4, 4)]⟩,
   ⟨0x1B, [(16, 4), (20, 4), (24, 4), (28, 2), (30, 2)], [(8, 4, 4), (12, 4, 4)]⟩,
   ⟨0x1C, [(20, 4), (24, 4), (28, 2), (30, 2)], [(8, 4, 4), (12, 4, 4), (16, 4, 4)]⟩] ++
  [⟨0x20, [(16, 4), (24, 4), (28, 2), (30, 2)], [(8, 4, 8), (12, 4, 8), (20, 4, 4)]⟩,
   ⟨0x21, [(24, 4), (28, 2), (30, 2)], [(8, 4, 8), (12, 4, 8), (16, 4, 8), (20, 4, 4)]⟩,
   ⟨0x22, [(20, 4), (24, 4), (28, 2), (30, 2)], [(8, 4, 8), (12, 4, 8), (16, 4, 8)]⟩,
   ⟨0x23, [(24, 4), (28, 2), (30, 2)], [(8, 4, 8), (12, 4, 8), (16, 4, 8), (20, 4, 4)]⟩,
   ⟨0x24, [(20, 4), (24, 4), (28, 2), (30, 2)], [(8, 4, 8), (12, 4, 8), (16, 4, 8)]⟩,
   ⟨0x30, [(20, 4), (24, 4), (28, 2), (30, 2)], [(8, 4, 8), (12, 4, 8), (16, 4, 8)]⟩,
   ⟨0x31, [(20, 4), (24, 4), (28, 2), (30, 2)], [(8, 4, 8), (12, 4, 8), (16, 4, 8)]⟩,
   ⟨0x32, [(16, 4), (20, 4), (24, 4), (28, 2), (30, 2)], [(8, 4, 8), (12, 4, 8)]⟩,
   ⟨0x33, [(16, 4), (20, 4), (24, 4), (28, 2), (30, 2)], [(8, 4, 8), (12, 4, 8)]⟩,
   ⟨0x34, [(16, 4), (20, 4), (24, 4), (28, 2), (30, 2)], [(8, 4, 8), (12, 4, 8)]⟩,
   ⟨0x35, [(8, 4), (16, 4), (20, 4), (24, 4), (28, 2), (30, 2)], [(12, 4, 8)]⟩,
   ⟨0x40, [(30, 2)], [(8, 4, 2), (12, 4, 8)]⟩] ++
  [⟨0x50, [(8, 4), (12, 4), (16, 4), (20, 4), (24, 4), (28, 2)], [(30, 2, Config.ngctx)]⟩,
   ⟨0x51, [(8, 4), (12, 4), (16, 4), (20, 4), (24, 4), (28, 2)], [(30, 2, Config.ngctx)]⟩,
   ⟨0x52, [(16, 4), (20, 4), (24, 4), (28, 2)], [(8, 4, 8), (12, 4, 8), (30, 2, Config.ngctx)]⟩,
   ⟨0x53, [(8, 4), (12, 4), (16, 4), (20, 4), (24, 4)], [(28, 2, Config.ngctx), (30, 2, Config.ngctx)]⟩,
   ⟨0x54, [(8, 4), (12, 4), (16, 4), (20, 4), (24, 4), (28, 2)], [(30, 2, Config.ngctx)]⟩,
   ⟨0x55, [(22, 8)], [(8, 4, 4), (12, 4, 8), (30, 2, Config.ngctx)]⟩,
   ⟨0x56, [(22, 8)], [(8, 4, 4), (30, 2, Config.ngctx)]⟩,
   ⟨0x60, [(8, 4), (12, 4), (16, 4), (20, 4), (24, 4), (28, 2)], [(30, 2, Config.nmctx)]⟩,
   ⟨0x61, [(8, 4), (12, 4), (16, 4), (20, 4), (24, 4)], [(28, 2, Config.nmctx), (30, 2, Config.nmctx)]⟩,
   ⟨0x62, [(8, 4), (12, 4), (16, 4), (20, 4), (24, 4), (28, 2)], [(30, 2, Config.nmctx)]⟩,
   ⟨0x63, [(28, 2)], [(8, 4, 8), (30, 2, Config.nmctx)]⟩,
   ⟨0x64, [(24, 4), (28, 2)], [(8, 4, 8), (12, 4, 8), (16, 4, 8), (20, 4, 8), (30, 2, Config.nmctx)]⟩]

/-- What makes a word whose opcode is that of `row` illegal (30_encoding.md R115 (b) to (e)). -/
def BadFields (w : Word) (row : OpcodeRow) : Prop :=
  (∃ z ∈ row.zeros, field w z.1 z.2 ≠ 0) ∨
  (∃ l ∈ row.limits, l.2.2 ≤ field w l.1 l.2.1) ∨
  (row.op = 0x14 ∧ (field w 16 4 = 0 ∨ 8 < field w 16 4 ∨
    8 < field w 8 4 + field w 16 4 ∨ 8 < field w 12 4 + field w 16 4))

/-- A command word is illegal (30_encoding.md R115). -/
def IllegalWord (w : Word) : Prop :=
  (∀ row ∈ opcodeRows, field w 0 8 ≠ row.op) ∨ ∃ row ∈ opcodeRows, field w 0 8 = row.op ∧ BadFields w row

/-! ### What a command reads, writes and may raise -/

/-- A piece of state a command may name (10_state.md R56). -/
inductive Place where
  | s (i : SSel)
  | f (i : FSel)
  | a (i : ASel)
  | j (i : JSel)
  | t (i : TSel)
  | w (b : WSel)
  | tflag
  | retval
  | seed
  | gctx (c : GSlot)
  | mctx (c : MSlot)
  deriving DecidableEq, Repr

/-- Two states hold the same bits at a place. -/
def SameAt (s t : State) : Place → Prop
  | .s i => s.sRaw[i] = t.sRaw[i]
  | .f i => s.fRaw[i] = t.fRaw[i]
  | .a i => s.aReg[i] = t.aReg[i]
  | .j i => s.jReg[i] = t.jReg[i]
  | .t i => s.tReg[i] = t.tReg[i]
  | .w b => s.wBuf[b] = t.wBuf[b]
  | .tflag => s.tflag = t.tflag
  | .retval => s.retval = t.retval
  | .seed => s.seed = t.seed
  | .gctx c => s.gctx[c] = t.gctx[c]
  | .mctx c => s.mctx[c] = t.mctx[c]

/-- Two states show a command the same operand value at a place (10_state.md R33 to R37). -/
def SameOperand (s t : State) : Place → Prop
  | .s i => s.readS i = t.readS i
  | .f i => s.readF i = t.readF i
  | .a i => s.readA i = t.readA i
  | .j i => s.readJ i = t.readJ i
  | .t i => s.readT i = t.readT i
  | .w b => s.wBuf[b] = t.wBuf[b]
  | .tflag => s.tflag = t.tflag
  | .retval => s.retval = t.retval
  | .seed => s.seed = t.seed
  | .gctx c => s.gctx[c] = t.gctx[c]
  | .mctx c => s.mctx[c] = t.mctx[c]

/-- What a command writes when it raises no fault (30_encoding.md R114, R119; 10_state.md R56). -/
def destinations : Instr → List Place
  | .gejSetGe rd _ | .gejNeg rd _ | .gejRescale rd _ _ | .gejAddGeVar rd _ _ | .gejAddZinvVar rd _ _ _
  | .gejAddGe rd _ _ | .genMul rd _ _ | .dualMul rd _ _ _ _ => [.j rd]
  | .geSetGej rd _ | .geSetGejVar rd _ | .geSetGejZinv rd _ _ | .geNeg rd _ | .geFromSt rd _
  | .pregLookup rd _ _ => [.a rd]
  | .batchNorm rd _ count => (List.range count).map fun t => .a (Fin.ofNat 8 (rd + t))
  | .geValid _ | .scIsEven _ => [.tflag]
  | .geToSt rd _ | .stCmov rd _ | .stCsel rd _ _ | .genSel rd _ _ _ | .genRd rd _ _ _ => [.t rd]
  | .gejDblVar rd _ rc | .gejAddVar rd _ _ rc => [.j rd, .f rc]
  | .scAdd rd _ _ | .scMul rd _ _ | .scNeg rd _ | .scInv rd _ | .scInvVar rd _ => [.s rd]
  | .wnaf rd _ _ _ => [.w rd, .retval]
  | .genBuild cx | .genClone cx _ | .genClear cx => [.gctx cx]
  | .genBlind cx => [.gctx cx, .seed]
  | .mulBuild cx | .mulClone cx _ | .mulClear cx => [.mctx cx]

/-- What a command reads (30_encoding.md R114; 10_state.md R56; the builds read `built`, 44 R261, 45 R301). -/
def sources : Instr → List Place
  | .gejSetGe _ ra | .geNeg _ ra | .geValid ra | .geToSt _ ra => [.a ra]
  | .geSetGej _ ra | .geSetGejVar _ ra | .gejNeg _ ra | .gejDblVar _ ra _ => [.j ra]
  | .geSetGejZinv _ ra rc | .gejRescale _ ra rc => [.j ra, .f rc]
  | .batchNorm _ ra count => (List.range count).map fun t => .j (Fin.ofNat 8 (ra + t))
  | .geFromSt _ ra => [.t ra]
  | .stCmov rd ra => [.t rd, .t ra, .tflag]
  | .stCsel _ ra rb => [.t ra, .t rb, .tflag]
  | .gejAddVar _ ra rb _ => [.j ra, .j rb]
  | .gejAddGeVar _ ra rb | .gejAddGe _ ra rb => [.j ra, .a rb]
  | .gejAddZinvVar _ ra rb rc => [.j ra, .a rb, .f rc]
  | .scAdd _ ra rb | .scMul _ ra rb => [.s ra, .s rb]
  | .scNeg _ ra | .scInv _ ra | .scInvVar _ ra | .scIsEven ra | .wnaf _ ra _ _ => [.s ra]
  | .genBuild cx => [.gctx cx]
  | .genBlind cx => [.gctx cx, .seed]
  | .genMul _ ra cx | .genSel _ ra _ cx => [.s ra, .gctx cx]
  | .genClone _ cs => [.gctx cs]
  | .genClear _ | .mulClear _ => []
  | .genRd _ _ _ cx => [.gctx cx]
  | .mulBuild cx | .pregLookup _ _ cx => [.mctx cx]
  | .mulClone _ cs => [.mctx cs]
  | .dualMul _ ra rb rc cx => [.a ra, .s rb, .s rc, .mctx cx]

/-- The fault codes a legal command may raise (60_exceptions.md R345). -/
def mayRaise : Instr → List Byte
  | .gejSetGe .. | .geSetGejZinv .. | .geNeg .. | .gejNeg .. | .geValid .. | .geFromSt .. | .stCmov ..
  | .stCsel .. | .gejDblVar .. | .gejAddVar .. | .gejAddGeVar .. | .gejAddZinvVar .. | .scAdd .. | .scMul ..
  | .scNeg .. | .scIsEven .. | .genBuild .. | .genClone .. | .genClear .. | .mulBuild .. | .mulClone ..
  | .mulClear .. => []
  | .geSetGej .. | .geSetGejVar .. | .batchNorm .. | .gejRescale .. | .scInv .. | .scInvVar .. => [0x03]
  | .geToSt .. | .gejAddGe .. => [0x02]
  | .wnaf .. => [0x05, 0x06]
  | .genBlind .. => [0x04, 0x07]
  | .genMul .. | .genSel .. | .genRd .. => [0x04]
  | .pregLookup .. => [0x04, 0x08]
  | .dualMul .. => [0x04, 0x03]

/-! ### Host accesses (20_memory.md R81 to R85) -/

/-- The host access `a` takes the block from `s` to `t`, whatever accesses come after it. -/
def Performs (a : HostAccess) (s t : State) : Prop :=
  ∀ rest, step { s with host := a :: rest } = .next { t with host := rest }

/-- A 32-bit read at a byte offset returns `w` and changes nothing. -/
def Reads (s : State) (offset : Nat) (w : Word) : Prop :=
  Performs (.read 32 (BitVec.ofNat 13 offset)) s { s with response := .data w }

/-- A 32-bit write of `w` at a byte offset leaves the block in the state `after`. -/
def Writes (s : State) (offset : Nat) (w : Word) (after : State) : Prop :=
  Performs (.write 32 (BitVec.ofNat 13 offset) w) s { after with response := .accepted }

/-- The access is refused: a bus error, no data, no change of the block's state (20_memory.md R85). -/
def Refused (a : HostAccess) (s : State) : Prop := Performs a s { s with response := .busError }

/-- The bits of a register word that exist: bit 0 of `TFLAG` and of an `INF` word, all 32 of another word
(20_memory.md R81). -/
def HostReg.mask : HostReg → Word
  | .tflag | .aInf _ | .jInf _ => 1
  | _ => 0xFFFFFFFF

/-- A reserved offset of the host register space (20_memory.md R81, R96). -/
def Reserved (o : Nat) : Prop :=
  (0x0040 ≤ o ∧ o < 0x0100) ∨ (0x0280 ≤ o ∧ o < 0x0400) ∨
  (0x0400 ≤ o ∧ o < 0x0800 ∧ 0x44 ≤ (o - 0x0400) % 0x80) ∨
  (0x0800 ≤ o ∧ o < 0x0C00 ∧ 0x64 ≤ (o - 0x0800) % 0x80) ∨
  (0x0D00 ≤ o ∧ o < 0x1000) ∨ 0x1808 ≤ o

/-- The host's next access resets the block: the platform's reset, or a `CTRL` write with bit 0 set
(70_reset_and_hazards.md R370). -/
def ResetComesNext (s : State) : Prop :=
  ∃ rest, s.host = .hardReset :: rest ∨ ∃ w : Word, w.getLsbD 0 = true ∧ s.host = .write 32 0x18 w :: rest

/-- The host's next access writes the word of the command `i` to `CMD`. -/
def CommandComesNext (s : State) (i : Instr) : Prop :=
  ∃ w rest, s.host = .write 32 0 w :: rest ∧ decode w = .ok i

/-! ### Canonical register contents (10_state.md R39) -/

/-- A scalar register content in `[0, n)`. -/
def CanonicalS (v : U256) : Prop := v.toNat < Config.n
/-- A field register content or coordinate in `[0, p)`. -/
def CanonicalF (v : U256) : Prop := v.toNat < Config.p
/-- Canonical coordinates, all 0 for the identity. -/
def CanonicalA (r : AReg) : Prop := CanonicalF r.x ∧ CanonicalF r.y ∧ (r.inf = true → r.x = 0 ∧ r.y = 0)
/-- Canonical coordinates, all 0 for the identity. -/
def CanonicalJ (r : JReg) : Prop :=
  CanonicalF r.x ∧ CanonicalF r.y ∧ CanonicalF r.z ∧ (r.inf = true → r.x = 0 ∧ r.y = 0 ∧ r.z = 0)
/-- Canonical coordinates. -/
def CanonicalT (r : TReg) : Prop := CanonicalF r.x ∧ CanonicalF r.y

/-- The register a command wrote holds canonical bits (10_state.md R39). -/
def CanonicalAt (s : State) : Place → Prop
  | .s i => CanonicalS s.sRaw[i]
  | .f i => CanonicalF s.fRaw[i]
  | .a i => CanonicalA s.aReg[i]
  | .j i => CanonicalJ s.jReg[i]
  | .t i => CanonicalT s.tReg[i]
  | .w _ | .tflag | .retval | .seed | .gctx _ | .mctx _ => True

/-! ### The invariant of every reachable state -/

/-- A generator slot as the lifecycle of 44_generator.md R272 leaves it: unbuilt in the cleared state, or built with
exactly the table of R263. -/
def GenCtx.Sound (c : GenCtx) : Prop := c = .unbuilt ∨ c.prec = some genTable

/-- A multiply slot as its lifecycle leaves it: unbuilt, or built with exactly the table of 45_dual_mul.md R302. -/
def MulCtx.Sound (c : MulCtx) : Prop := c.preG = none ∨ c.preG = some mulTable

/-- What holds of every state a run from reset reaches: `FAULTINFO` is 0 without a fault and holds one of the eight
codes with one (10_state.md R46, 60_exceptions.md R331), the two counts are at most 256 (10_state.md R38, R42), and
every context slot is as its lifecycle leaves it. -/
structure State.Inv (s : State) : Prop where
  infoOfNoFault : s.fault = false → s.faultInfo = ⟨0, 0⟩
  codeOfFault : s.fault = true → 1 ≤ s.faultInfo.code.toNat ∧ s.faultInfo.code.toNat ≤ 8
  bitsRange : ∀ b : WSel, s.wBuf[b].bits.toNat ≤ 256
  retvalRange : s.retval.toNat ≤ 256
  genSound : ∀ c : GSlot, s.gctx[c].Sound
  mulSound : ∀ c : MSlot, s.mctx[c].Sound

/-! ### Operand values and results as integers -/

/-- The register content of an integer reduced mod `p`. -/
def rawP (v : Int) : U256 := BitVec.ofInt 256 (v % Config.p)
/-- The register content of an integer reduced mod `n`. -/
def rawN (v : Int) : U256 := BitVec.ofInt 256 (v % Config.n)

/-- The integer a scalar register stands for, in `[0, n)` (10_state.md R33). -/
def State.sVal (s : State) (i : SSel) : Int := (s.sRaw[i].toNat : Int) % Config.n
/-- The integer a field register stands for, in `[0, p)` (10_state.md R34). -/
def State.fVal (s : State) (i : FSel) : Int := (s.fRaw[i].toNat : Int) % Config.p
/-- The integer a coordinate stands for, in `[0, p)` (10_state.md R34). -/
def coord (raw : U256) : Int := (raw.toNat : Int) % Config.p

/-- A finite Jacobian register content with these coordinates reduced mod `p`. -/
def jacobianRaw (x y z : Int) : JReg := ⟨rawP x, rawP y, rawP z, false⟩
/-- The register content `JINF`. -/
def jacobianInf : JReg := ⟨0, 0, 0, true⟩
/-- A finite affine register content with these coordinates reduced mod `p`. -/
def affineRaw (x y : Int) : AReg := ⟨rawP x, rawP y, false⟩
/-- The register content `AINF`. -/
def affineInf : AReg := ⟨0, 0, true⟩
/-- A storage register content with these coordinates reduced mod `p`. -/
def storageRaw (x y : Int) : TReg := ⟨rawP x, rawP y⟩

/-! ### The rules' coordinate formulas, over the integers (41_group_add.md) -/

/-- The double of `(x, y, z)`: R196's `9·X⁴ - 8·X·Y²`, `36·X³·Y² - 27·X⁶ - 8·Y⁴`, `2·Y·Z`. -/
def doubleFormula (x y z : Int) : JReg :=
  jacobianRaw (9 * x ^ 4 - 8 * x * y ^ 2) (36 * x ^ 3 * y ^ 2 - 27 * x ^ 6 - 8 * y ^ 4) (2 * y * z)

/-- The sum of `(x1, y1, z1)` and a second point by R190, and its ratio: `u1, u2` and `s1, s2` are the two `x` and the
two `y` at a common `z`, `zf` turns `h` into the ratio. Equal points are doubled, opposite points give `JINF`. -/
def sumFormula (x1 y1 z1 u1 u2 s1 s2 zf : Int) : JReg × U256 :=
  let h := u2 - u1
  let i := s2 - s1
  let x3 := i ^ 2 - h ^ 3 - 2 * u1 * h ^ 2
  if h % Config.p = 0 then
    if i % Config.p = 0 then (doubleFormula x1 y1 z1, rawP (2 * y1)) else (jacobianInf, 0)
  else (jacobianRaw x3 (i * (u1 * h ^ 2 - x3) - s1 * h ^ 3) (z1 * h * zf), rawP (h * zf))

/-- The unified sum of `(x1, y1, z1)` and the affine `(x2, y2)` by R200, with the degenerate slope where
`M = R = 0`. -/
def unifiedFormula (x1 y1 z1 x2 y2 : Int) : JReg :=
  let u2 := x2 * z1 ^ 2
  let s2 := y2 * z1 ^ 3
  let t := x1 + u2
  let m := y1 + s2
  let r := t ^ 2 - x1 * u2
  let degenerate := m % Config.p = 0 ∧ r % Config.p = 0
  let rAlt := if degenerate then 2 * y1 else r
  let mAlt := if degenerate then x1 - u2 else m
  let nn := if degenerate then 0 else mAlt ^ 4
  let q := mAlt ^ 2 * t
  let xh := rAlt ^ 2 - q
  let yh := rAlt * (q - 2 * xh) - nn
  if 2 * z1 * mAlt % Config.p = 0 then jacobianInf
  else jacobianRaw (4 * xh) (4 * yh) (2 * z1 * mAlt)

/-! ### Conversions, digits and table sums as the rules state them -/

/-- `a` is the register content of the affine form of the Jacobian content `j` (40_group_convert.md R160): the
identity for the identity, else `x·Z² = X` and `y·Z³ = Y` mod `p`. -/
def IsAffineForm (j : JReg) (a : AReg) : Prop :=
  if j.inf then a = affineInf
  else ∃ x y : Int, a = affineRaw x y ∧
    (x * coord j.z ^ 2 - coord j.x) % Config.p = 0 ∧ (y * coord j.z ^ 3 - coord j.y) % Config.p = 0

/-- A finite Jacobian content with `z = 0`, whose conversion raises F_ZERO (60_exceptions.md R333). -/
def HasZeroZ (j : JReg) : Prop := j.inf = false ∧ coord j.z = 0

/-- The canonical content of a Jacobian operand (10_state.md R36, R39). -/
def canonicalJ (j : JReg) : JReg := if j.inf then jacobianInf else jacobianRaw (coord j.x) (coord j.y) (coord j.z)

/-- The magnitude the wNAF encoder works on: `n - a` where bit 255 of `a` is set, else `a` (43_wnaf.md R240). -/
def wnafMagnitude (a : Int) : Int := if 2 ^ 255 ≤ a then Config.n - a else a

/-- The guarantees of 43_wnaf.md R241 (a) to (d) and R242 for the digits and the count of a scalar `a`. -/
structure WnafDigits (a : Int) (w len : Nat) (digit : Vector Int 256) (count : Nat) : Prop where
  congruent : (∑ i : Fin 256, digit[i] * 2 ^ i.val - a) % Config.n = 0
  oddInRange : ∀ i : Fin 256, digit[i] ≠ 0 →
    digit[i] % 2 = 1 ∧ -(2 ^ (w - 1) - 1) ≤ digit[i] ∧ digit[i] ≤ 2 ^ (w - 1) - 1
  separated : ∀ i j : Fin 256, i < j → digit[i] ≠ 0 → digit[j] ≠ 0 → w ≤ j.val - i.val
  countIsTop : (count = 0 ∧ ∀ i : Fin 256, digit[i] = 0) ∨
    ∃ i : Fin 256, digit[i] ≠ 0 ∧ count = i.val + 1 ∧ ∀ j : Fin 256, i < j → digit[j] = 0
  inBuffer : ∀ i : Fin 256, len ≤ i.val → digit[i] = 0

/-- `s` with the digits and the count in `W[rd]` and the count in `RETVAL` (43_wnaf.md R241). -/
def withDigits (s : State) (rd : WSel) (digit : Vector Int 256) (count : Nat) : State :=
  { s with
    wBuf := s.wBuf.set rd ⟨digit.map (BitVec.ofInt 32), BitVec.ofNat 9 count⟩
    retval := BitVec.ofNat 9 count }

/-- The odd multiple `(2·i + 1)·A` by repeated `gej_add` of the double (45_dual_mul.md R306). -/
def oddMultiple (a : Ge) : Nat → Gej
  | 0 => ⟨a.x, a.y, feOfNat 1, false⟩
  | i + 1 => (gejAdd (oddMultiple a i) (gejDouble ⟨a.x, a.y, feOfNat 1, false⟩).1).1

/-- Adds the odd multiple that the digit `d` names, negated for a negative digit; digit 0 adds nothing
(20_memory.md R89, 45_dual_mul.md R310). -/
def addOddMultiple (entry : Nat → Ge) (d : Int) (r : Gej) : Gej :=
  if d = 0 then r
  else
    let e := entry ((d.natAbs - 1) / 2)
    gejAddGe r (if d < 0 then geNeg e else e)

/-- The left-to-right pass of `DUAL_MUL` over two digit sequences, from position `bits - 1` down to 0
(45_dual_mul.md R310). -/
def dualSum (entryA entryG : Nat → Ge) (digitA digitG : Nat → Int) (bits : Nat) : Gej :=
  (List.range bits).reverse.foldl
    (fun r i => addOddMultiple entryG (digitG i) (addOddMultiple entryA (digitA i) (gejDouble r).1)) JINF

/-- The sum of 64 table entries onto `initial`, each addressed directly by its window of `gnb`
(44_generator.md R267, R264: the conditional-move lookup returns what direct indexing returns). -/
def windowSum (t : GenTable) (initial : Gej) (gnb : Sc) : Gej :=
  (List.finRange 64).foldl (fun r j => gejAddGeCt r (geOfSt t[j][window gnb j])) initial

/-- A sampling loop of `GEN_BLIND` that starts at output `start` accepts output `t` (44_generator.md R266): the first
output in `(0, bound)`, among at most `cap` tries. -/
def Accepts (draw : Nat → Nat) (bound cap start t : Nat) : Prop :=
  start ≤ t ∧ t < start + cap ∧ 0 < draw t ∧ draw t < bound ∧
  ∀ u, start ≤ u → u < t → draw u = 0 ∨ bound ≤ draw u

/-- A sampling loop of `GEN_BLIND` that starts at output `start` rejects `cap` candidates (44_generator.md R266). -/
def Rejects (draw : Nat → Nat) (bound cap start : Nat) : Prop :=
  ∀ u, start ≤ u → u < start + cap → draw u = 0 ∨ bound ≤ draw u

/-- The outputs `GEN_BLIND` draws for a slot: `DRBG(be32(blind) ‖ be32(SEED), t)` as integers (44_generator.md R266). -/
def blindOutput (s : State) (cx : GSlot) (t : Nat) : Nat :=
  intBe (Config.drbg (be32 (BitVec.ofNat 256 s.gctx[cx].blind.val) ++ be32 s.seed) t)

/-- The state `GEN_BLIND` commits for the field element `scale` and the scalar `b` (44_generator.md R266, steps 3, 4). -/
def blinded (s : State) (cx : GSlot) (t : GenTable) (scale : Nat) (b : Sc) : State :=
  { s with
    seed := 0
    gctx := s.gctx.set cx
      { s.gctx[cx] with
        initial := windowSum t (gejRescale s.gctx[cx].initial (feOfNat scale)) (ssub b s.gctx[cx].blind)
        blind := b } }

/-! ### The group (00_scope.md R15) -/

/-- The curve `y² = x³ + 7` over the field of `p` elements (00_scope.md R9). -/
def curve : WeierstrassCurve.Affine (ZMod Config.p) := ⟨0, 0, 0, 0, Config.b⟩

/-- A point of the curve, the identity `O` included. -/
abbrev Point := WeierstrassCurve.Affine.Point curve

/-- The affine value `a` stands for the point `P`. -/
def Ge.StandsFor (a : Ge) (P : Point) : Prop :=
  (a.inf = true ∧ P = .zero) ∨
  (a.inf = false ∧ ∃ x y h, P = .some x y h ∧ x = a.x.val ∧ y = a.y.val)

/-- The Jacobian value `a` stands for the point `P`: `aff(a) = P`, with `z ≠ 0` where it is finite
(00_scope.md R15, 10_state.md R55). -/
def Gej.StandsFor (a : Gej) (P : Point) : Prop :=
  (a.inf = true ∧ P = .zero) ∨
  (a.inf = false ∧ a.z.val ≠ 0 ∧
    ∃ x y h, P = .some x y h ∧ x * (a.z.val : ZMod Config.p) ^ 2 = a.x.val ∧
      y * (a.z.val : ZMod Config.p) ^ 3 = a.y.val)

/-- A built generator slot that satisfies 10_state.md R54: the table of R263 (I2), and `aff(initial) = blind·G` with
`initial` finite (I1). -/
def GenCtx.Valid [Fact (Nat.Prime Config.p)] (c : GenCtx) : Prop :=
  c.prec = some genTable ∧ c.initial.inf = false ∧
  ∀ G : Point, basePoint.StandsFor G → c.initial.StandsFor (c.blind.val • G)

end Sys2Proof.Machine
end

