-- ==== Sys2Proof/Certificates/Slice0/Obligations.lean ====
section
/-! DEFINITION. The statements for the provers, each named after what it states. -/

open Sys2Proof Sys2Proof.Machine

/-! ### Encoding (30_encoding.md) -/

/-- Every legal command is read back from its word, with every operand at every value (R110 to R114). -/
def Obligations.DecodeInvertsEncode : Prop := ∀ i : Instr, i.WellFormed → decode (encode i) = .ok i

/-- Every word that decodes is the word of the command it decodes to: each command has one word. -/
def Obligations.EncodeInvertsDecode : Prop := ∀ w i, decode w = .ok i → i.WellFormed ∧ encode i = w

/-- R115, R332: a word is rejected exactly where one of the clauses (a) to (e) holds, and writing it to `CMD` raises
F_ILLEGAL. -/
def Obligations.IllegalWordsRaiseIllegal : Prop :=
  (∀ w : Word, IllegalWord w ↔ ∃ e, decode w = .error e) ∧
  ∀ s w rest, s.host = .write 32 0 w :: rest → s.fault = false → IllegalWord w →
    ∃ t, step s = .next t ∧ t.host = rest ∧ t.response = .accepted ∧
      t.arch = { s with fault := true, faultInfo := ⟨0x01, w.extractLsb' 0 8⟩ }.arch

/-- R122: the six worked encodings. -/
def Obligations.WorkedEncodings : Prop :=
  HasWord (.gejSetGe 0 0) 0x00000010 ∧
  HasWord (.gejAddVar 2 0 1 1) 0x00110221 ∧
  HasWord (.wnaf 1 3 5 256) 0x20053140 ∧
  HasWord (.genSel 0 1 63 1) 0x403F1055 ∧
  HasWord (.pregLookup 3 (BitVec.ofInt 16 (-5)) 0) 0x0FFFB363 ∧
  HasWord (.dualMul 0 0 0 1 0) 0x00100064

/-! ### Steps, faults and reset (20_memory.md, 60_exceptions.md, 70_reset_and_hazards.md) -/

/-- R110: a `CMD` write executes the command its word encodes, by the opcode in bits 7:0, unless the block is in the
fault state, where it is ignored. The step takes the access off the host's stream and answers it (logs 1, 2). -/
def Obligations.StepRunsTheDecodedCommand : Prop :=
  ∀ s w rest, s.host = .write 32 0 w :: rest →
    (s.fault = true → step s = .next { s with host := rest, response := .accepted }) ∧
    (s.fault = false → ∀ i, decode w = .ok i →
      field w 0 8 = i.opcode.toNat ∧ step s = exec i { s with host := rest, response := .accepted })

/-- R90, R386, R391: no access leaves the block stuck (the model's every step answers a next state), and with no access
to take the block holds its state (that it then has a step at all is the model's choice, log 1). -/
def Obligations.EveryStepAnswersNext : Prop :=
  (∀ s, ∃ t, step s = .next t) ∧ ∀ s, s.host = [] → step s = .next s

/-- R57: the value of every piece of state after reset, for both values of `STATIC_PRECOMP`. -/
def Obligations.ResetValues : Prop :=
  State.reset = State.resetOf Config.staticPrecomp ∧ ∀ static, let s := State.resetOf static
    (∀ i : SSel, s.sRaw[i] = 0) ∧ (∀ i : FSel, s.fRaw[i] = 0) ∧
    (∀ i : ASel, s.aReg[i] = ⟨0, 0, true⟩) ∧ (∀ i : JSel, s.jReg[i] = ⟨0, 0, 0, true⟩) ∧
    (∀ i : TSel, s.tReg[i] = ⟨0, 0⟩) ∧
    (∀ (b : WSel) (i : Fin 256), s.wBuf[b].digit[i] = 0) ∧ (∀ b : WSel, s.wBuf[b].bits = 0) ∧
    s.tflag = false ∧ s.retval = 0 ∧ s.seed = 0 ∧ s.fault = false ∧ s.faultInfo = ⟨0, 0⟩ ∧
    (∀ c : GSlot, s.gctx[c] =
      if static then ⟨some genTable, ⟨feOfNat Config.gx, feOfNat Config.gy, feOfNat 1, false⟩, scOfNat 1⟩
      else ⟨none, ⟨feOfNat 0, feOfNat 0, feOfNat 0, true⟩, scOfNat 0⟩) ∧
    (∀ c : MSlot, s.mctx[c] = if static then ⟨some mulTable⟩ else ⟨none⟩) ∧
    s.staticPrecomp = static ∧ Reads s 0x1C (if static then 1 else 0) ∧
    Reads s 0x0C (if static then 0x00030003 else 0)

/-- R48, R370: the platform's reset and a `CTRL` write with bit 0 set put the whole architectural state to the reset
value of a block with this `STATIC_PRECOMP` from every state; a `CTRL` write with bit 0 clear changes nothing; `CTRL` reads 0. -/
def Obligations.ResetWorksInEveryState : Prop :=
  (∀ s t, ResetComesNext s → step s = .next t → t.arch = (State.resetOf s.staticPrecomp).arch) ∧
  (∀ s (w : Word), w.getLsbD 0 = false → Writes s 0x18 w s) ∧
  (∀ s, Reads s 0x18 0)

/-- R341: in the fault state no access but a reset changes the block, and reads still answer. -/
def Obligations.FaultStateIsSticky : Prop :=
  (∀ s t, s.fault = true → step s = .next t → ¬ ResetComesNext s → t.arch = s.arch ∧ t.leak = s.leak) ∧
  (∀ s r, s.fault = true → Reads s (HostReg.offset r) (loadReg s r)) ∧
  (∀ s t, s.fault = true → step s = .next t → t.fault = false →
    ResetComesNext s ∧ t.arch = (State.resetOf s.staticPrecomp).arch)

/-- R373: the fault state is entered only by the fault entry of a `CMD` write, and never by a reset. -/
def Obligations.FaultEnteredOnlyByCommands : Prop :=
  (∀ static, (State.resetOf static).fault = false) ∧
  ∀ s t, s.fault = false → step s = .next t → t.fault = true →
    ∃ (w : Word) (rest : List HostAccess) (code : Byte), s.host = .write 32 0 w :: rest ∧
      1 ≤ code.toNat ∧ code.toNat ≤ 8 ∧
      t.arch = { s with fault := true, faultInfo := ⟨code, w.extractLsb' 0 8⟩ }.arch

/-- R340: a command that raises a fault writes `STATUS.FAULT` and `FAULTINFO` (its code and bits 7:0 of its word) and
nothing else; one that raises none leaves both alone; and `leak` names the fault. -/
def Obligations.FaultEntryIsPrecise : Prop :=
  ∀ i s t, exec i s = .next t →
    (∀ f, t.leakFault = some f →
      t.arch = { s with fault := true, faultInfo := ⟨f.code, (encode i).extractLsb' 0 8⟩ }.arch) ∧
    (t.leakFault = none → t.fault = s.fault ∧ t.faultInfo = s.faultInfo)

/-- R345: a legal command raises no fault but those of its row. -/
def Obligations.FaultsByCommand : Prop :=
  ∀ i s t, i.WellFormed → s.fault = false → exec i s = .next t → t.fault = true →
    t.faultInfo.code ∈ mayRaise i

/-- R334: the commands that read a context fault on an unbuilt slot, whatever their operands hold; the commands of the
lifecycle raise no fault. -/
def Obligations.UnbuiltSlotFaults : Prop :=
  (∀ s (cx : GSlot), s.gctx[cx].built = false →
    RaisesFault (.genBlind cx) s 0x04 ∧
    (∀ rd ra, RaisesFault (.genMul rd ra cx) s 0x04) ∧
    (∀ rd ra j, RaisesFault (.genSel rd ra j cx) s 0x04) ∧
    (∀ rd e j, RaisesFault (.genRd rd e j cx) s 0x04)) ∧
  (∀ s (cx : MSlot), s.mctx[cx].built = false →
    (∀ rd d, RaisesFault (.pregLookup rd d cx) s 0x04) ∧
    (∀ rd ra rb rc, RaisesFault (.dualMul rd ra rb rc cx) s 0x04)) ∧
  (∀ s t (cx cs : GSlot), exec (.genBuild cx) s = .next t ∨ exec (.genClone cx cs) s = .next t ∨
    exec (.genClear cx) s = .next t → t.fault = s.fault ∧ t.leakFault = none) ∧
  (∀ s t (cx cs : MSlot), exec (.mulBuild cx) s = .next t ∨ exec (.mulClone cx cs) s = .next t ∨
    exec (.mulClear cx) s = .next t → t.fault = s.fault ∧ t.leakFault = none)

/-! ### What every command and every step leaves alone (10_state.md, 30_encoding.md) -/

/-- R119: a command writes only the destinations its rule names, and nothing at all of them where it raises a fault;
the host's stream, its last answer and `STATIC_PRECOMP` are not a command's to change. -/
def Obligations.OnlyNamedDestinationsAreWritten : Prop :=
  ∀ i s t, exec i s = .next t →
    (∀ d, d ∉ destinations i → SameAt s t d) ∧ (t.leakFault ≠ none → ∀ d, SameAt s t d) ∧
    t.host = s.host ∧ t.response = s.response ∧ t.staticPrecomp = s.staticPrecomp

/-- R56, R118: what a command writes, and the fault it raises, depend only on the operand values of the places it
names as sources. -/
def Obligations.ResultsDependOnNamedSources : Prop :=
  ∀ i s s' t t', (∀ d ∈ sources i, SameOperand s s' d) → exec i s = .next t → exec i s' = .next t' →
    t.leakFault = t'.leakFault ∧ (t.leakFault = none → ∀ d ∈ destinations i, SameAt t t' d)

/-- R39: what a command writes to a register is canonical, with all coordinates 0 for the identity. -/
def Obligations.ResultsAreCanonical : Prop :=
  ∀ i s t, exec i s = .next t → t.leakFault = none → ∀ d ∈ destinations i, CanonicalAt t d

/-- The invariant of `State.Inv` holds after reset, for both values of `STATIC_PRECOMP`. -/
def Obligations.InvariantHoldsAtReset : Prop := State.reset.Inv ∧ ∀ static, (State.resetOf static).Inv

/-- The invariant of `State.Inv` is kept by every step from every state that has it. -/
def Obligations.StepKeepsInvariant : Prop := ∀ s t, s.Inv → step s = .next t → t.Inv

/-- R82, R87, R272: a context changes only by a reset or by a command that names it as a destination; a built slot
loses its table only to a clone into it, a clear of it or a reset, and its blinding is refreshed by `GEN_BLIND` alone. -/
def Obligations.ContextsChangeOnlyByTheirCommands : Prop :=
  ∀ s t, step s = .next t → ¬ ResetComesNext s →
    (∀ c : GSlot, s.gctx[c] ≠ t.gctx[c] → ∃ i, CommandComesNext s i ∧ .gctx c ∈ destinations i) ∧
    (∀ c : MSlot, s.mctx[c] ≠ t.mctx[c] → ∃ i, CommandComesNext s i ∧ .mctx c ∈ destinations i) ∧
    (∀ (c : GSlot) table, s.gctx[c].prec = some table → t.gctx[c].prec ≠ some table →
      CommandComesNext s (.genClear c) ∨ ∃ cs, CommandComesNext s (.genClone c cs)) ∧
    (∀ (c : MSlot) table, s.mctx[c].preG = some table → t.mctx[c].preG ≠ some table →
      CommandComesNext s (.mulClear c) ∨ ∃ cs, CommandComesNext s (.mulClone c cs)) ∧
    (∀ c : GSlot, s.gctx[c].built = true → t.gctx[c].prec = s.gctx[c].prec → s.gctx[c] ≠ t.gctx[c] →
      CommandComesNext s (.genBlind c) ∨ ∃ cs, CommandComesNext s (.genClone c cs))

/-- R82, R53: no host read tells two states apart that differ in the contexts alone, as long as the same slots are
built. -/
def Obligations.HostReadsRevealOnlyBuiltBits : Prop :=
  ∀ (s : State) g m, (∀ c : GSlot, s.gctx[c].built = g[c].built) → (∀ c : MSlot, s.mctx[c].built = m[c].built) →
    ∀ width offset rest t t',
      step { s with host := .read width offset :: rest } = .next t →
      step { s with gctx := g, mctx := m, host := .read width offset :: rest } = .next t' →
      t.response = t'.response ∧ t'.gctx = g ∧ t'.mctx = m

/-! ### The host register space (20_memory.md) -/

/-- R81, R84, with the control registers of 10_state.md R44 to R49 and R52: what a read of every mapped word returns. -/
def Obligations.HostReadsReturnTheMappedWords : Prop :=
  ∀ s : State,
    Reads s 0x00 0 ∧ Reads s 0x04 (if s.fault then 1 else 0) ∧
    Reads s 0x08 (BitVec.ofNat 32 (s.faultInfo.code.toNat + 2 ^ 8 * s.faultInfo.op.toNat)) ∧
    Reads s 0x0C (BitVec.ofNat 32
      ((if s.gctx[0].built then 1 else 0) + (if s.gctx[1].built then 2 else 0) +
        (if s.mctx[0].built then 2 ^ 16 else 0) + (if s.mctx[1].built then 2 ^ 17 else 0))) ∧
    Reads s 0x10 (if s.tflag then 1 else 0) ∧ Reads s 0x14 (BitVec.ofNat 32 s.retval.toNat) ∧
    Reads s 0x18 0 ∧ Reads s 0x1C (if s.staticPrecomp then 1 else 0) ∧
    (∀ k : Fin 8, Reads s (0x20 + 4 * k) 0) ∧
    (∀ (i : SSel) (k : Fin 8), Reads s (0x100 + 0x20 * i + 4 * k) (s.sRaw[i].extractLsb' (32 * k) 32)) ∧
    (∀ (i : FSel) (k : Fin 8), Reads s (0x200 + 0x20 * i + 4 * k) (s.fRaw[i].extractLsb' (32 * k) 32)) ∧
    (∀ (i : ASel) (k : Fin 8), Reads s (0x400 + 0x80 * i + 4 * k) (s.aReg[i].x.extractLsb' (32 * k) 32)) ∧
    (∀ (i : ASel) (k : Fin 8), Reads s (0x420 + 0x80 * i + 4 * k) (s.aReg[i].y.extractLsb' (32 * k) 32)) ∧
    (∀ i : ASel, Reads s (0x440 + 0x80 * i) (if s.aReg[i].inf then 1 else 0)) ∧
    (∀ (i : JSel) (k : Fin 8), Reads s (0x800 + 0x80 * i + 4 * k) (s.jReg[i].x.extractLsb' (32 * k) 32)) ∧
    (∀ (i : JSel) (k : Fin 8), Reads s (0x820 + 0x80 * i + 4 * k) (s.jReg[i].y.extractLsb' (32 * k) 32)) ∧
    (∀ (i : JSel) (k : Fin 8), Reads s (0x840 + 0x80 * i + 4 * k) (s.jReg[i].z.extractLsb' (32 * k) 32)) ∧
    (∀ i : JSel, Reads s (0x860 + 0x80 * i) (if s.jReg[i].inf then 1 else 0)) ∧
    (∀ (i : TSel) (k : Fin 8), Reads s (0xC00 + 0x40 * i + 4 * k) (s.tReg[i].x.extractLsb' (32 * k) 32)) ∧
    (∀ (i : TSel) (k : Fin 8), Reads s (0xC20 + 0x40 * i + 4 * k) (s.tReg[i].y.extractLsb' (32 * k) 32)) ∧
    (∀ (b : WSel) (i : Fin 256), Reads s (0x1000 + 0x400 * b + 4 * i) s.wBuf[b].digit[i]) ∧
    (∀ b : WSel, Reads s (0x1800 + 4 * b) (BitVec.ofNat 32 s.wBuf[b].bits.toNat))

/-- R85, R96: an access of another width, at an offset that is no multiple of 4, or at a reserved offset, and no other,
is refused. -/
def Obligations.UnmappedAccessesAreRefused : Prop :=
  ∀ (s : State) width (offset : BitVec 13),
    ((width ≠ 32 ∨ offset.toNat % 4 ≠ 0 ∨ Reserved offset.toNat) →
      Refused (.read width offset) s ∧ ∀ w, Refused (.write width offset w) s) ∧
    (width = 32 → offset.toNat % 4 = 0 → ¬ Reserved offset.toNat →
      (∃ w, Performs (.read width offset) s { s with response := .data w }) ∧
      ∀ w t rest, step { s with host := .write width offset w :: rest } = .next t → t.response = .accepted)

/-- R83: a written word is stored unchanged and read back, and no other word changes; write-only words read 0, writes of
read-only words are ignored, and no read has a side effect. -/
def Obligations.HostWritesStoreOneWord : Prop :=
  (∀ s w (r : HostReg), s.fault = false → r.kind = .readWrite →
    ∃ t, Writes s r.offset w t ∧ loadReg t r = w &&& r.mask ∧ (∀ r', r' ≠ r → loadReg t r' = loadReg s r') ∧
      t.seed = s.seed ∧ t.gctx = s.gctx ∧ t.mctx = s.mctx ∧ t.leak = s.leak) ∧
  (∀ (s : State) w (k : Fin 8), s.fault = false →
    ∃ v, Writes s (0x20 + 4 * k) w { s with seed := v } ∧
      ∀ k' : Fin 8, v.extractLsb' (32 * k') 32 = if k' = k then w else s.seed.extractLsb' (32 * k') 32) ∧
  (∀ s w (r : HostReg), r.kind = .readOnly → Writes s r.offset w s) ∧
  (∀ s (r : HostReg), Reads s r.offset (loadReg s r)) ∧
  (∀ s (r : HostReg), r.kind = .writeOnly → Reads s r.offset 0)

/-! ### Scalars (42_scalar.md) -/

/-- R221 to R223: sum, product and negative mod `n`. -/
def Obligations.ScalarRingCommands : Prop :=
  ∀ (s : State) (rd ra rb : SSel),
    (HasWord (.scAdd rd ra rb) (0x30 + 0x100 * rd + 0x1000 * ra + 0x10000 * rb) ∧
      Completes (.scAdd rd ra rb) s (s.putS rd (rawN (s.sVal ra + s.sVal rb)))) ∧
    (HasWord (.scMul rd ra rb) (0x31 + 0x100 * rd + 0x1000 * ra + 0x10000 * rb) ∧
      Completes (.scMul rd ra rb) s (s.putS rd (rawN (s.sVal ra * s.sVal rb)))) ∧
    (HasWord (.scNeg rd ra) (0x32 + 0x100 * rd + 0x1000 * ra) ∧
      Completes (.scNeg rd ra) s (s.putS rd (rawN (-s.sVal ra))))

/-- R224, R225: both inverses write `a^(n-2) mod n`, which times `a` is 1 mod `n`, and raise F_ZERO for 0; `SC_INV` is
constant time. -/
def Obligations.ScalarInverses : Prop :=
  ∀ (s : State) (rd ra : SSel),
    HasWord (.scInv rd ra) (0x33 + 0x100 * rd + 0x1000 * ra) ∧
    HasWord (.scInvVar rd ra) (0x34 + 0x100 * rd + 0x1000 * ra) ∧
    ConstantTime (.scInv rd ra) ∧
    (s.sVal ra = 0 → RaisesFault (.scInv rd ra) s 0x03 ∧ RaisesFault (.scInvVar rd ra) s 0x03) ∧
    (s.sVal ra ≠ 0 → ∃ r : Int, r = s.sVal ra ^ (Config.n - 2) % Config.n ∧ s.sVal ra * r % Config.n = 1 ∧
      Completes (.scInv rd ra) s (s.putS rd (rawN r)) ∧
      Completes (.scInvVar rd ra) s (s.putS rd (rawN r)))

/-- R226: `TFLAG.T` becomes the parity of the representative in `[0, n)`. -/
def Obligations.ScalarParity : Prop :=
  ∀ (s : State) (ra : SSel), HasWord (.scIsEven ra) (0x35 + 0x1000 * ra) ∧
    Completes (.scIsEven ra) s { s with tflag := decide (s.sVal ra % 2 = 0) }

/-! ### Conversions (40_group_convert.md) -/

/-- R151, R162, R163: affine to Jacobian with `z = 1`, and the two negations; the identity stays the identity. -/
def Obligations.ConversionsWithoutInversion : Prop :=
  ∀ s : State,
    (∀ (rd : JSel) (ra : ASel), HasWord (.gejSetGe rd ra) (0x10 + 0x100 * rd + 0x1000 * ra) ∧
      Completes (.gejSetGe rd ra) s (s.putJ rd
        (if s.aReg[ra].inf then jacobianInf else jacobianRaw (coord s.aReg[ra].x) (coord s.aReg[ra].y) 1))) ∧
    (∀ rd ra : ASel, HasWord (.geNeg rd ra) (0x15 + 0x100 * rd + 0x1000 * ra) ∧
      Completes (.geNeg rd ra) s (s.putA rd
        (if s.aReg[ra].inf then affineInf else affineRaw (coord s.aReg[ra].x) (-coord s.aReg[ra].y)))) ∧
    (∀ rd ra : JSel, HasWord (.gejNeg rd ra) (0x16 + 0x100 * rd + 0x1000 * ra) ∧
      Completes (.gejNeg rd ra) s (s.putJ rd
        (if s.jReg[ra].inf then jacobianInf
        else jacobianRaw (coord s.jReg[ra].x) (-coord s.jReg[ra].y) (coord s.jReg[ra].z))))

/-- R152, R153, R160: both conversions write the affine form, and raise F_ZERO for a finite operand with `z = 0`;
`GE_SET_GEJ` is constant time. -/
def Obligations.ConversionsWithInversion : Prop :=
  ∀ (s : State) (rd : ASel) (ra : JSel),
    HasWord (.geSetGej rd ra) (0x11 + 0x100 * rd + 0x1000 * ra) ∧
    HasWord (.geSetGejVar rd ra) (0x12 + 0x100 * rd + 0x1000 * ra) ∧
    ConstantTime (.geSetGej rd ra) ∧
    (HasZeroZ s.jReg[ra] → RaisesFault (.geSetGej rd ra) s 0x03 ∧ RaisesFault (.geSetGejVar rd ra) s 0x03) ∧
    (¬ HasZeroZ s.jReg[ra] → ∃ a, IsAffineForm s.jReg[ra] a ∧
      Completes (.geSetGej rd ra) s (s.putA rd a) ∧
      Completes (.geSetGejVar rd ra) s (s.putA rd a))

/-- R154, R161: the conversion by a given inverse uses `F[rc]` as it stands and never reads `z`. -/
def Obligations.ConversionByGivenInverse : Prop :=
  ∀ (s : State) (rd : ASel) (ra : JSel) (rc : FSel),
    HasWord (.geSetGejZinv rd ra rc) (0x13 + 0x100 * rd + 0x1000 * ra + 0x100000 * rc) ∧
    Completes (.geSetGejZinv rd ra rc) s (s.putA rd
      (if s.jReg[ra].inf then affineInf
      else affineRaw (coord s.jReg[ra].x * s.fVal rc ^ 2) (coord s.jReg[ra].y * s.fVal rc ^ 3)))

/-- R155: `N` registers are converted, all reads first; one operand with `z = 0` stops them all. -/
def Obligations.BatchNormalisation : Prop :=
  ∀ (s : State) (rd : ASel) (ra : JSel) (count : Fin 16),
    1 ≤ count.val → count.val ≤ 8 → rd.val + count.val ≤ 8 → ra.val + count.val ≤ 8 →
    HasWord (.batchNorm rd ra count) (0x14 + 0x100 * rd + 0x1000 * ra + 0x10000 * count) ∧
    ((∃ t : JSel, ra ≤ t ∧ t.val < ra.val + count.val ∧ HasZeroZ s.jReg[t]) →
      RaisesFault (.batchNorm rd ra count) s 0x03) ∧
    ((∀ t : JSel, ra ≤ t → t.val < ra.val + count.val → ¬ HasZeroZ s.jReg[t]) →
      ∃ out : Vector AReg 8, Completes (.batchNorm rd ra count) s { s with aReg := out } ∧
        (∀ (j : ASel) (t : JSel), rd ≤ j → j.val < rd.val + count.val → t.val = ra.val + (j.val - rd.val) →
          IsAffineForm s.jReg[t] out[j]) ∧
        ∀ j : ASel, j < rd ∨ rd.val + count.val ≤ j.val → out[j] = s.aReg[j])

/-- R164: `T` says whether the operand is a finite point of `y² = x³ + 7`. -/
def Obligations.PointValidity : Prop :=
  ∀ (s : State) (ra : ASel), HasWord (.geValid ra) (0x17 + 0x1000 * ra) ∧
    Completes (.geValid ra) s (s.writeT1 (!s.aReg[ra].inf &&
      decide ((coord s.aReg[ra].y ^ 2 - coord s.aReg[ra].x ^ 3 - 7) % Config.p = 0)))

/-- R165: the rescaled point, with F_ZERO for `s = 0` before the infinity case; the affine form is kept. -/
def Obligations.PointRescale : Prop :=
  ∀ (s : State) (rd ra : JSel) (rc : FSel),
    let r := if s.jReg[ra].inf then jacobianInf
      else jacobianRaw (coord s.jReg[ra].x * s.fVal rc ^ 2) (coord s.jReg[ra].y * s.fVal rc ^ 3)
        (coord s.jReg[ra].z * s.fVal rc)
    HasWord (.gejRescale rd ra rc) (0x18 + 0x100 * rd + 0x1000 * ra + 0x100000 * rc) ∧
    (s.fVal rc = 0 → RaisesFault (.gejRescale rd ra rc) s 0x03) ∧
    (s.fVal rc ≠ 0 → Completes (.gejRescale rd ra rc) s (s.putJ rd r) ∧
      ∀ a, IsAffineForm s.jReg[ra] a → IsAffineForm r a)

/-- R156, R157, R339: storage form needs a finite point, and turns back into a finite point. -/
def Obligations.StorageForm : Prop :=
  ∀ s : State,
    (∀ (rd : TSel) (ra : ASel), HasWord (.geToSt rd ra) (0x19 + 0x100 * rd + 0x1000 * ra) ∧
      (s.aReg[ra].inf = true → RaisesFault (.geToSt rd ra) s 0x02) ∧
      (s.aReg[ra].inf = false → Completes (.geToSt rd ra) s
        (s.putT rd (storageRaw (coord s.aReg[ra].x) (coord s.aReg[ra].y))))) ∧
    (∀ (rd : ASel) (ra : TSel), HasWord (.geFromSt rd ra) (0x1A + 0x100 * rd + 0x1000 * ra) ∧
      Completes (.geFromSt rd ra) s
        (s.putA rd (affineRaw (coord s.tReg[ra].x) (coord s.tReg[ra].y))))

/-- R158, R159: conditional move and select by `TFLAG.T`, both constant time; the value written is reduced even where
nothing moves. -/
def Obligations.ConditionalMoveAndSelect : Prop :=
  ∀ (s : State) (rd ra rb : TSel),
    let moved (d e : TReg) : TReg := if s.tflag then storageRaw (coord e.x) (coord e.y)
      else storageRaw (coord d.x) (coord d.y)
    HasWord (.stCmov rd ra) (0x1B + 0x100 * rd + 0x1000 * ra) ∧
    HasWord (.stCsel rd ra rb) (0x1C + 0x100 * rd + 0x1000 * ra + 0x10000 * rb) ∧
    ConstantTime (.stCmov rd ra) ∧ ConstantTime (.stCsel rd ra rb) ∧
    Completes (.stCmov rd ra) s (s.putT rd (moved s.tReg[rd] s.tReg[ra])) ∧
    Completes (.stCsel rd ra rb) s (s.putT rd (moved s.tReg[ra] s.tReg[rb]))

/-- R166: converting to Jacobian and back gives the operand value, on the curve or not; and conversion by the true
inverse of `z` is the conversion with an inversion. -/
def Obligations.ConversionRoundTrip : Prop :=
  (∀ (s : State) (rd : JSel) (ra rd' : ASel), ∃ t u v,
    exec (.gejSetGe rd ra) s = .next t ∧ exec (.geSetGej rd' rd) t = .next u ∧ exec (.geSetGejVar rd' rd) t = .next v ∧
    u.readA rd' = s.readA ra ∧ v.readA rd' = s.readA ra ∧ u.fault = s.fault ∧ v.fault = s.fault) ∧
  ∀ (s : State) (rd : ASel) (ra : JSel) (rc : FSel), s.fVal rc * coord s.jReg[ra].z % Config.p = 1 →
    ∃ t u, exec (.geSetGejZinv rd ra rc) s = .next t ∧ exec (.geSetGej rd ra) s = .next u ∧ t.arch = u.arch

/-! ### Additions (41_group_add.md) -/

/-- R196 (by R191): the double and its ratio; the double of a finite value is finite, and the identity has ratio 1. -/
def Obligations.Doubling : Prop :=
  ∀ (s : State) (rd ra : JSel) (rc : FSel),
    let a := s.jReg[ra]
    HasWord (.gejDblVar rd ra rc) (0x20 + 0x100 * rd + 0x1000 * ra + 0x100000 * rc) ∧
    Completes (.gejDblVar rd ra rc) s
      (if a.inf then (s.putJ rd jacobianInf).putF rc 1
      else (s.putJ rd (doubleFormula (coord a.x) (coord a.y) (coord a.z))).putF rc (rawP (2 * coord a.y)))

/-- R190, R197 (by R192): the sum of two Jacobian values and its ratio, with the identity on either side, equal points
(doubled) and opposite points (`JINF`, ratio 0). -/
def Obligations.GeneralAddition : Prop :=
  ∀ (s : State) (rd ra rb : JSel) (rc : FSel),
    let a := s.jReg[ra]
    let b := s.jReg[rb]
    let r : JReg × U256 :=
      if a.inf then (canonicalJ b, 0)
      else if b.inf then (canonicalJ a, 1)
      else sumFormula (coord a.x) (coord a.y) (coord a.z) (coord a.x * coord b.z ^ 2) (coord b.x * coord a.z ^ 2)
        (coord a.y * coord b.z ^ 3) (coord b.y * coord a.z ^ 3) (coord b.z)
    HasWord (.gejAddVar rd ra rb rc) (0x21 + 0x100 * rd + 0x1000 * ra + 0x10000 * rb + 0x100000 * rc) ∧
    Completes (.gejAddVar rd ra rb rc) s ((s.putJ rd r.1).putF rc r.2)

/-- R198 (by R193): the mixed addition writes no ratio. -/
def Obligations.MixedAddition : Prop :=
  ∀ (s : State) (rd ra : JSel) (rb : ASel),
    let a := s.jReg[ra]
    let b := s.aReg[rb]
    let r : JReg :=
      if a.inf then (if b.inf then jacobianInf else jacobianRaw (coord b.x) (coord b.y) 1)
      else if b.inf then canonicalJ a
      else (sumFormula (coord a.x) (coord a.y) (coord a.z) (coord a.x) (coord b.x * coord a.z ^ 2)
        (coord a.y) (coord b.y * coord a.z ^ 3) 1).1
    HasWord (.gejAddGeVar rd ra rb) (0x22 + 0x100 * rd + 0x1000 * ra + 0x10000 * rb) ∧
    Completes (.gejAddGeVar rd ra rb) s (s.putJ rd r)

/-- R199 (by R194): the mixed addition with the inverse of the second point's implicit `z`, used as given. -/
def Obligations.MixedAdditionByGivenInverse : Prop :=
  ∀ (s : State) (rd ra : JSel) (rb : ASel) (rc : FSel),
    let a := s.jReg[ra]
    let b := s.aReg[rb]
    let zi := s.fVal rc
    let r : JReg :=
      if b.inf then canonicalJ a
      else if a.inf then jacobianRaw (coord b.x * zi ^ 2) (coord b.y * zi ^ 3) 1
      else (sumFormula (coord a.x) (coord a.y) (coord a.z) (coord a.x) (coord b.x * (coord a.z * zi) ^ 2)
        (coord a.y) (coord b.y * (coord a.z * zi) ^ 3) 1).1
    HasWord (.gejAddZinvVar rd ra rb rc) (0x23 + 0x100 * rd + 0x1000 * ra + 0x10000 * rb + 0x100000 * rc) ∧
    Completes (.gejAddZinvVar rd ra rb rc) s (s.putJ rd r)

/-- R195, R200: the unified addition, constant time, with F_INFINITY for an affine identity. -/
def Obligations.UnifiedAddition : Prop :=
  ∀ (s : State) (rd ra : JSel) (rb : ASel),
    let a := s.jReg[ra]
    let b := s.aReg[rb]
    HasWord (.gejAddGe rd ra rb) (0x24 + 0x100 * rd + 0x1000 * ra + 0x10000 * rb) ∧
    ConstantTime (.gejAddGe rd ra rb) ∧
    (b.inf = true → RaisesFault (.gejAddGe rd ra rb) s 0x02) ∧
    (b.inf = false → Completes (.gejAddGe rd ra rb) s (s.putJ rd
      (if a.inf then jacobianRaw (coord b.x) (coord b.y) 1
      else unifiedFormula (coord a.x) (coord a.y) (coord a.z) (coord b.x) (coord b.y))))

/-- R191, R192: for finite operands and results the ratio takes the input's `z` to the result's. -/
def Obligations.RatioTakesZToZ : Prop :=
  (∀ (s t : State) (rd ra : JSel) (rc : FSel), exec (.gejDblVar rd ra rc) s = .next t → s.jReg[ra].inf = false →
    t.jReg[rd].inf = false ∧ t.jReg[rd].z = rawP (coord s.jReg[ra].z * t.fVal rc)) ∧
  (∀ (s t : State) (rd ra rb : JSel) (rc : FSel), exec (.gejAddVar rd ra rb rc) s = .next t →
    s.jReg[ra].inf = false → t.jReg[rd].inf = false →
    t.jReg[rd].z = rawP (coord s.jReg[ra].z * t.fVal rc))

/-- R201: adding a finite value to itself gives the very bits of doubling it, and adding its negative gives `JINF`
where neither `y` nor `z` is 0 (as for every valid point). -/
def Obligations.AddingItselfAndItsNegative : Prop :=
  (∀ (s t : State) (rd ra : JSel) (rc : FSel), s.jReg[ra].inf = false → exec (.gejAddVar rd ra ra rc) s = .next t →
    ∃ u, exec (.gejDblVar rd ra rc) s = .next u ∧ t.arch = u.arch) ∧
  ∀ (s t u : State) (rd ra rn : JSel) (rc : FSel), s.jReg[ra].inf = false → coord s.jReg[ra].y ≠ 0 →
    coord s.jReg[ra].z ≠ 0 → rn ≠ ra → exec (.gejNeg rn ra) s = .next t →
    exec (.gejAddVar rd ra rn rc) t = .next u → u.jReg[rd] = jacobianInf ∧ u.fVal rc = 0

/-- R191, R192 (contracts): doubling and the general addition follow the group law on operands that stand for points of
the curve. -/
def Obligations.JacobianGroupLaw : Prop :=
  ∀ [Fact (Nat.Prime Config.p)] (s : State) (rd ra rb : JSel) (rc : FSel) (P Q : Point),
    (s.readJ ra).StandsFor P → (s.readJ rb).StandsFor Q →
    (∃ t, exec (.gejDblVar rd ra rc) s = .next t ∧ (t.readJ rd).StandsFor (P + P)) ∧
    ∃ t, exec (.gejAddVar rd ra rb rc) s = .next t ∧ (t.readJ rd).StandsFor (P + Q)

/-- R193, R194, R195 (contracts): the three mixed additions follow the group law; the one by a given inverse adds the
point `(b.x·zi², b.y·zi³)`. -/
def Obligations.MixedGroupLaw : Prop :=
  ∀ [Fact (Nat.Prime Config.p)] (s : State) (rd ra : JSel) (rb : ASel) (rc : FSel) (P Q : Point),
    (s.readJ ra).StandsFor P →
    ((s.readA rb).StandsFor Q →
      (∃ t, exec (.gejAddGeVar rd ra rb) s = .next t ∧ (t.readJ rd).StandsFor (P + Q)) ∧
      ((s.readA rb).inf = false → ∃ t, exec (.gejAddGe rd ra rb) s = .next t ∧ (t.readJ rd).StandsFor (P + Q))) ∧
    ((s.readF rc).val ≠ 0 → (s.readA rb).inf = false →
      Ge.StandsFor ⟨feOfNat ((s.readA rb).x.val * (s.readF rc).val ^ 2),
        feOfNat ((s.readA rb).y.val * (s.readF rc).val ^ 3), false⟩ Q →
      ∃ t, exec (.gejAddZinvVar rd ra rb rc) s = .next t ∧ (t.readJ rd).StandsFor (P + Q))

/-! ### The wNAF encoder (43_wnaf.md) -/

/-- R335: `WNAF` raises F_WNAF_PARAM exactly where `w < 2` or `len > 256`, before it looks at the scalar. -/
def Obligations.WnafParameters : Prop :=
  ∀ (s : State) (rd : WSel) (ra : SSel) (w : Fin 32) (len : Fin 512),
    (w.val < 2 ∨ 256 < len.val → RaisesFault (.wnaf rd ra w len) s 0x05) ∧
    (2 ≤ w.val → len.val ≤ 256 → ∀ t, exec (.wnaf rd ra w len) s = .next t → t.leakFault ≠ some .wnafParam)

/-- R243 and the guarantees (a) to (d) of R241: with `len = 256`, and wherever the magnitude leaves the top bit of the
buffer free, `WNAF` completes with digits that stand for the scalar; F_WNAF_RANGE is the only other outcome, and it is
certain where the magnitude does not fit. -/
def Obligations.WnafEncoding : Prop :=
  ∀ (s : State) (rd : WSel) (ra : SSel) (w : Fin 32) (len : Fin 512), 2 ≤ w.val → len.val ≤ 256 →
    HasWord (.wnaf rd ra w len) (0x40 + 0x100 * rd + 0x1000 * ra + 0x10000 * w + 0x200000 * len) ∧
    ((∃ digit count, WnafDigits (s.sVal ra) w len digit count ∧ count ≤ len.val ∧
        Completes (.wnaf rd ra w len) s (withDigits s rd digit count)) ∨
      RaisesFault (.wnaf rd ra w len) s 0x06) ∧
    (len.val = 256 ∨ 2 * wnafMagnitude (s.sVal ra) < 2 ^ len.val →
      ∃ digit count, WnafDigits (s.sVal ra) w len digit count ∧ count ≤ len.val ∧
        Completes (.wnaf rd ra w len) s (withDigits s rd digit count)) ∧
    (2 ^ len.val ≤ wnafMagnitude (s.sVal ra) → RaisesFault (.wnaf rd ra w len) s 0x06)

/-! ### The contexts (44_generator.md, 45_dual_mul.md) -/

/-- R261, R301: a build fills an unbuilt slot and changes nothing of a built one. -/
def Obligations.BuildFillsTheSlotOnce : Prop :=
  (∀ (s : State) (cx : GSlot), HasWord (.genBuild cx) (0x50 + 0x40000000 * cx) ∧
    Completes (.genBuild cx) s (if s.gctx[cx].built then s
      else s.putG cx
        ⟨some genTable, ⟨feOfNat Config.gx, feOfNat Config.gy, feOfNat 1, false⟩, scOfNat 1⟩)) ∧
  ∀ (s : State) (cx : MSlot), HasWord (.mulBuild cx) (0x60 + 0x40000000 * cx) ∧
    Completes (.mulBuild cx) s
      (if s.mctx[cx].built then s else s.putM cx ⟨some mulTable⟩)

/-- R269, R270, R303, R304: a clone copies the whole source slot; a clear leaves the unbuilt slot with no secret. -/
def Obligations.CloneCopiesAndClearErases : Prop :=
  (∀ (s : State) (cx cs : GSlot), HasWord (.genClone cx cs) (0x53 + 0x10000000 * cs + 0x40000000 * cx) ∧
    Completes (.genClone cx cs) s (s.putG cx s.gctx[cs])) ∧
  (∀ (s : State) (cx : GSlot), HasWord (.genClear cx) (0x54 + 0x40000000 * cx) ∧
    Completes (.genClear cx) s (s.putG cx ⟨none, ⟨feOfNat 0, feOfNat 0, feOfNat 0, true⟩, scOfNat 0⟩)) ∧
  (∀ (s : State) (cx cs : MSlot), HasWord (.mulClone cx cs) (0x61 + 0x10000000 * cs + 0x40000000 * cx) ∧
    Completes (.mulClone cx cs) s (s.putM cx s.mctx[cs])) ∧
  ∀ (s : State) (cx : MSlot), HasWord (.mulClear cx) (0x62 + 0x40000000 * cx) ∧
    Completes (.mulClear cx) s (s.putM cx ⟨none⟩)

/-- R264, R265, R88: the conditional-move accessor writes the directly indexed entry of the scalar's window, is constant
time, and reads all 16 entries in order; `GEN_RD` writes and reads its one entry. -/
def Obligations.TableAccessors : Prop :=
  ∀ (s : State) (rd : TSel) (ra : SSel) (j : Fin 64) (i : Fin 16) (cx : GSlot),
    HasWord (.genSel rd ra j cx) (0x55 + 0x100 * rd + 0x1000 * ra + 0x10000 * j + 0x40000000 * cx) ∧
    HasWord (.genRd rd i j cx) (0x56 + 0x100 * rd + 0x1000 * i + 0x10000 * j + 0x40000000 * cx) ∧
    ConstantTime (.genSel rd ra j cx) ∧
    (s.gctx[cx].prec = none →
      RaisesFault (.genSel rd ra j cx) s 0x04 ∧ RaisesFault (.genRd rd i j cx) s 0x04) ∧
    ∀ table d, s.gctx[cx].prec = some table → (d : Fin 16).val = s.sRaw[ra].toNat % Config.n / 16 ^ j.val % 16 →
      Completes (.genSel rd ra j cx) s (s.putT rd (storageRaw (table[j][d]).x.val (table[j][d]).y.val)) ∧
      Completes (.genRd rd i j cx) s (s.putT rd (storageRaw (table[j][i]).x.val (table[j][i]).y.val)) ∧
      (∀ t, exec (.genSel rd ra j cx) s = .next t →
        t.leakReads = some ((List.finRange 16).map fun e => .gen j e)) ∧
      ∀ t, exec (.genRd rd i j cx) s = .next t → t.leakReads = some [.gen j i]

/-- R267, R273: on a built slot `GEN_MUL` writes the sum of `initial` and one directly indexed entry for each window of
`k - blind`, least significant first, by the unified addition, and changes no context; it is constant time, and reads
all 1024 entries in order. -/
def Obligations.GenMulAddsOneEntryPerWindow : Prop :=
  ∀ (s : State) (rd : JSel) (ra : SSel) (cx : GSlot),
    HasWord (.genMul rd ra cx) (0x52 + 0x100 * rd + 0x1000 * ra + 0x40000000 * cx) ∧
    ConstantTime (.genMul rd ra cx) ∧
    ∀ table, s.gctx[cx].prec = some table →
      Completes (.genMul rd ra cx) s (s.writeJ rd (windowSum table s.gctx[cx].initial
        (scOfNat (s.sRaw[ra].toNat + (Config.n - s.gctx[cx].blind.val))))) ∧
      ∀ t, exec (.genMul rd ra cx) s = .next t →
        t.leakReads = some ((List.finRange 64).flatMap fun j => (List.finRange 16).map fun e => .gen j e)

/-- R267, R268 (contract): on every valid context, however blinded, `GEN_MUL` writes a representative of `k·G`, and the
identity exactly for `k = 0`. -/
def Obligations.GenMulIsScalarMultiple : Prop :=
  ∀ [Fact (Nat.Prime Config.p)] (s : State) (rd : JSel) (ra : SSel) (cx : GSlot) (G : Point),
    basePoint.StandsFor G → s.gctx[cx].Valid →
    ∃ t, exec (.genMul rd ra cx) s = .next t ∧ (t.readJ rd).StandsFor ((s.readS ra).val • G) ∧
      (t.jReg[rd].inf = true ↔ (s.readS ra).val = 0)

/-- R54 with R261, R266, R269, R371: that every built generator context is valid is kept by every step. -/
def Obligations.BuiltContextsStayValid : Prop :=
  ∀ [Fact (Nat.Prime Config.p)] (s t : State), (∀ c : GSlot, s.gctx[c].built = true → s.gctx[c].Valid) →
    step s = .next t → ∀ c : GSlot, t.gctx[c].built = true → t.gctx[c].Valid

/-- R266 for every DRBG and every cap: `blindWith`, which `GEN_BLIND` is with the block's own DRBG and cap, commits the
new blinding and clears `SEED` where both loops accept, and raises F_DRBG with nothing changed where one loop rejects
`cap` candidates; the outputs drawn stand in `leak`. -/
def Obligations.BlindingForEveryDrbg : Prop :=
  (∀ (s : State) (cx : GSlot), exec (.genBlind cx) s = blindWith (blindOutput s cx) Config.retryCap cx s) ∧
  ∀ (s : State) (cx : GSlot) (table : GenTable) (draw : Nat → Nat) (cap : Nat), s.gctx[cx].prec = some table →
    (∀ t1 t2, Accepts draw Config.p cap 0 t1 → Accepts draw Config.n cap (t1 + 1) t2 →
      ∃ t, blindWith draw cap cx s = .next t ∧ t.host = s.host ∧ t.response = s.response ∧
        t.leakDraws = some (t2 + 1) ∧ t.arch = (blinded s cx table (draw t1) (scOfNat (draw t2))).arch) ∧
    (Rejects draw Config.p cap 0 ∨ (∃ t1, Accepts draw Config.p cap 0 t1 ∧ Rejects draw Config.n cap (t1 + 1)) →
      ∃ t, blindWith draw cap cx s = .next t ∧ t.host = s.host ∧ t.response = s.response ∧
        t.arch = { s with fault := true, faultInfo := ⟨0x07, 0x51⟩ }.arch)

/-- R266 for the block's own DRBG and `RETRY_CAP`, of which nothing is assumed: `GEN_BLIND` on a built slot commits
exactly what its two loops accept, or raises F_DRBG because one of them rejected `RETRY_CAP` candidates; its leak is a
function of the fault and the number of outputs drawn. -/
def Obligations.BlindingCommitsOrFaults : Prop :=
  ∀ (s : State) (cx : GSlot),
    HasWord (.genBlind cx) (0x51 + 0x40000000 * cx) ∧
    (∀ s' t t', exec (.genBlind cx) s = .next t → exec (.genBlind cx) s' = .next t' →
      t.leakFault = t'.leakFault → t.leakDraws = t'.leakDraws → t.leak = t'.leak) ∧
    ∀ table, s.gctx[cx].prec = some table →
      (∃ t1 t2, Accepts (blindOutput s cx) Config.p Config.retryCap 0 t1 ∧
        Accepts (blindOutput s cx) Config.n Config.retryCap (t1 + 1) t2 ∧
        Completes (.genBlind cx) s (blinded s cx table (blindOutput s cx t1) (scOfNat (blindOutput s cx t2)))) ∨
      ((Rejects (blindOutput s cx) Config.p Config.retryCap 0 ∨
        ∃ t1, Accepts (blindOutput s cx) Config.p Config.retryCap 0 t1 ∧
          Rejects (blindOutput s cx) Config.n Config.retryCap (t1 + 1)) ∧
        RaisesFault (.genBlind cx) s 0x07)

/-- R305, R89, R338: the signed odd accessor of the command set: F_INDEX for an even immediate, else the entry
`(|d| - 1) / 2`, negated for a negative `d`; never the identity. -/
def Obligations.SignedOddLookup : Prop :=
  ∀ (s : State) (rd : ASel) (simm16 : BitVec 16) (cx : MSlot),
    HasWord (.pregLookup rd simm16 cx) (0x63 + 0x100 * rd + 0x1000 * simm16.toNat + 0x40000000 * cx) ∧
    ∀ table, s.mctx[cx].preG = some table →
      (simm16.toInt % 2 = 0 → RaisesFault (.pregLookup rd simm16 cx) s 0x08) ∧
      (simm16.toInt % 2 = 1 → ∀ idx : Fin 16384, 2 * idx.val + 1 = simm16.toInt.natAbs →
        Completes (.pregLookup rd simm16 cx) s (s.putA rd
          (affineRaw table[idx].x.val (if simm16.toInt < 0 then -table[idx].y.val else table[idx].y.val))) ∧
        ∀ t, exec (.pregLookup rd simm16 cx) s = .next t → t.leakReads = some [.mul idx])

/-- R310, R306: on a built slot `DUAL_MUL` encodes both scalars, takes the left-to-right pass over both digit streams
and writes `J[rd]` alone; a stream is empty for a zero scalar, or for `A = O`; F_ZERO exactly where the odd multiples
of `A` are needed and one of the eight has `z = 0`. -/
def Obligations.DualMulPass : Prop :=
  ∀ (s : State) (rd : JSel) (ra : ASel) (rb rc : SSel) (cx : MSlot),
    let a := s.readA ra
    let na := s.readS rb
    let ng := s.readS rc
    let needsA := a.inf = false ∧ na.val ≠ 0
    let badA := ∃ i < 8, (oddMultiple a i).inf = false ∧ (oddMultiple a i).z.val = 0
    HasWord (.dualMul rd ra rb rc cx)
      (0x64 + 0x100 * rd + 0x1000 * ra + 0x10000 * rb + 0x100000 * rc + 0x40000000 * cx) ∧
    ∀ table, s.mctx[cx].preG = some table →
      (needsA ∧ badA → RaisesFault (.dualMul rd ra rb rc cx) s 0x03) ∧
      (¬ (needsA ∧ badA) → ∃ wa wg : DigitStream,
        (needsA → wnafEncode na 5 256 = .ok wa) ∧ (¬ needsA → wa = .empty) ∧
        (ng.val ≠ 0 → wnafEncode ng 16 256 = .ok wg) ∧ (ng.val = 0 → wg = .empty) ∧
        Completes (.dualMul rd ra rb rc cx) s (s.writeJ rd
          (dualSum (fun i => affineOf (oddMultiple a i))
            (fun i => geOfSt (table.toArray.getD i ⟨feOfNat 0, feOfNat 0⟩))
            (fun i => wa.digit.toArray.getD i 0) (fun i => wg.digit.toArray.getD i 0) (max wa.count wg.count))))

/-- R302, R305 (contract): on a slot that holds the table of a build, `PREG_LOOKUP` of an odd `d` writes `d·G`. -/
def Obligations.LookupIsOddMultipleOfG : Prop :=
  ∀ [Fact (Nat.Prime Config.p)] (s : State) (rd : ASel) (simm16 : BitVec 16) (cx : MSlot) (G : Point),
    basePoint.StandsFor G → s.mctx[cx].preG = some mulTable → simm16.toInt % 2 = 1 →
    ∃ t, exec (.pregLookup rd simm16 cx) s = .next t ∧ (t.readA rd).StandsFor (simm16.toInt • G)

/-- R310 (contract): on a slot that holds the table of a build, `DUAL_MUL` writes a representative of `na·A + ng·G` for
every point `A` of the curve, the identity included. -/
def Obligations.DualMulIsCombination : Prop :=
  ∀ [Fact (Nat.Prime Config.p)] (s : State) (rd : JSel) (ra : ASel) (rb rc : SSel) (cx : MSlot) (G A : Point),
    basePoint.StandsFor G → (s.readA ra).StandsFor A → s.mctx[cx].preG = some mulTable →
    ∃ t, exec (.dualMul rd ra rb rc cx) s = .next t ∧
      (t.readJ rd).StandsFor ((s.readS rb).val • A + (s.readS rc).val • G)

/-! ### Constant time (00_scope.md R17) -/

/-- R387, R273: the seven constant-time commands, and `GEN_BLIND` up to the number of outputs it draws. -/
def Obligations.ConstantTimeCommands : Prop :=
  (∀ rd ra, ConstantTime (.geSetGej rd ra)) ∧ (∀ rd ra rb, ConstantTime (.gejAddGe rd ra rb)) ∧
  (∀ rd ra, ConstantTime (.stCmov rd ra)) ∧ (∀ rd ra rb, ConstantTime (.stCsel rd ra rb)) ∧
  (∀ rd ra, ConstantTime (.scInv rd ra)) ∧ (∀ rd ra cx, ConstantTime (.genMul rd ra cx)) ∧
  (∀ rd ra j cx, ConstantTime (.genSel rd ra j cx)) ∧
  ∀ cx s s' t t', exec (.genBlind cx) s = .next t → exec (.genBlind cx) s' = .next t' →
    t.leakFault = t'.leakFault → t.leakDraws = t'.leakDraws → t.leak = t'.leak

/-! ### The construction parameter `STATIC_PRECOMP` (00_scope.md R8, 70_reset_and_hazards.md R374) -/

/-- R8, with R374: `STATIC_PRECOMP` is `false` by default, no step changes it and `CFG` shows it; where it is `true`,
every reset leaves each slot exactly as the build command leaves an unbuilt one; and no command tells the two
configurations apart. That a state carries the parameter is the model's choice (log 7). -/
def Obligations.StaticConfiguration : Prop :=
  State.reset.staticPrecomp = false ∧
  (∀ s t, step s = .next t → t.staticPrecomp = s.staticPrecomp) ∧
  (∀ s, Reads s 0x1C (if s.staticPrecomp then 1 else 0) ∧ ∀ w, Writes s 0x1C w s) ∧
  (∀ s t, s.staticPrecomp = true → ResetComesNext s → step s = .next t →
    (∀ (c : GSlot) u v, u.gctx[c].built = false → exec (.genBuild c) u = .next v →
      v.gctx[c].built = true ∧ t.gctx[c] = v.gctx[c]) ∧
    (∀ (c : MSlot) u v, u.mctx[c].built = false → exec (.mulBuild c) u = .next v →
      v.mctx[c].built = true ∧ t.mctx[c] = v.mctx[c]) ∧
    Reads t 0x0C 0x00030003 ∧ Reads t 0x1C 1) ∧
  ∀ i s t static, exec i s = .next t →
    exec i { s with staticPrecomp := static } = .next { t with staticPrecomp := static }
end

