-- ==== Sys2Proof/Laws/Arith.lean ====
section
/-! SUPPORT. The laws of the field and scalar primitives: each primitive's result as an exact integer reduced once, the
power by squaring, and the laws of negation, subtraction and byte strings that the later files cite. -/

namespace Sys2Proof.Machine

/-! ### Values -/

@[simp] theorem feOfNat_val (v : Nat) : (feOfNat v).val = v % Config.p := rfl

@[simp] theorem scOfNat_val (v : Nat) : (scOfNat v).val = v % Config.n := rfl

@[simp] theorem feOfNat_self (a : Fe) : feOfNat a.val = a := Fin.ext (Nat.mod_eq_of_lt a.isLt)

@[simp] theorem scOfNat_self (a : Sc) : scOfNat a.val = a := Fin.ext (Nat.mod_eq_of_lt a.isLt)

theorem p_lt : Config.p < 2 ^ 256 := by decide

theorem n_lt : Config.n < 2 ^ 256 := by decide

/-- 10_state.md R33: a raw scalar is less than `2n`. -/
theorem two_pow_lt_two_n : 2 ^ 256 < 2 * Config.n := by decide

theorem Fe.lt_two_pow (a : Fe) : a.val < 2 ^ 256 := a.isLt.trans p_lt

theorem Sc.lt_two_pow (a : Sc) : a.val < 2 ^ 256 := a.isLt.trans n_lt

@[simp] theorem fadd_val (a b : Fe) : (fadd a b).val = (a.val + b.val) % Config.p := rfl
@[simp] theorem fmul_val (a b : Fe) : (fmul a b).val = a.val * b.val % Config.p := rfl
@[simp] theorem fsqr_val (a : Fe) : (fsqr a).val = a.val * a.val % Config.p := rfl
@[simp] theorem fmulint_val (k : Nat) (a : Fe) : (fmulint k a).val = k * a.val % Config.p := rfl
@[simp] theorem fneg_val (a : Fe) : (fneg a).val = (Config.p - a.val) % Config.p := rfl
@[simp] theorem fsub_val (a b : Fe) : (fsub a b).val = (a.val + (Config.p - b.val)) % Config.p := rfl
@[simp] theorem sadd_val (a b : Sc) : (sadd a b).val = (a.val + b.val) % Config.n := rfl
@[simp] theorem smul_val (a b : Sc) : (smul a b).val = a.val * b.val % Config.n := rfl
@[simp] theorem sneg_val (a : Sc) : (sneg a).val = (Config.n - a.val) % Config.n := rfl
@[simp] theorem ssub_val (a b : Sc) : (ssub a b).val = (a.val + (Config.n - b.val)) % Config.n := rfl

@[simp] theorem fiszero_iff (a : Fe) : fiszero a = true ↔ a.val = 0 := by simp [fiszero]

@[simp] theorem fcmov_true (d s : Fe) : fcmov d s true = s := rfl
@[simp] theorem fcmov_false (d s : Fe) : fcmov d s false = d := rfl

/-! ### The integer each primitive reduces (00_scope.md R12, R13) -/

/-- Two field elements are equal when their integers agree mod `p`. -/
theorem Fe.ext_int {a b : Fe} (h : ((a.val : Int) - b.val) % Config.p = 0) : a = b := by
  have ha := a.isLt
  have hb := b.isLt
  apply Fin.ext
  obtain ⟨k, hk⟩ := Int.dvd_of_emod_eq_zero h
  have hk0 : k = 0 := by
    by_contra hne
    rcases lt_or_gt_of_ne hne with hneg | hpos
    · nlinarith
    · nlinarith
  subst hk0
  omega

/-- The integer of `feOfNat v` agrees with `v` mod `p`. -/
theorem feOfNat_cast (v : Nat) : ((feOfNat v).val : ZMod Config.p) = v := by
  simp [feOfNat_val, ZMod.natCast_mod]

theorem fadd_cast (a b : Fe) : ((fadd a b).val : ZMod Config.p) = a.val + b.val := by
  simp [ZMod.natCast_mod]

theorem fmul_cast (a b : Fe) : ((fmul a b).val : ZMod Config.p) = a.val * b.val := by
  simp [ZMod.natCast_mod]

theorem fsqr_cast (a : Fe) : ((fsqr a).val : ZMod Config.p) = a.val ^ 2 := by
  simp [ZMod.natCast_mod, pow_two]

theorem fmulint_cast (k : Nat) (a : Fe) : ((fmulint k a).val : ZMod Config.p) = k * a.val := by
  simp [ZMod.natCast_mod]

theorem fneg_cast (a : Fe) : ((fneg a).val : ZMod Config.p) = -a.val := by
  simp [ZMod.natCast_mod, Nat.cast_sub a.isLt.le]

theorem fsub_cast (a b : Fe) : ((fsub a b).val : ZMod Config.p) = a.val - b.val := by
  simp [ZMod.natCast_mod, Nat.cast_sub b.isLt.le, sub_eq_add_neg]

theorem sadd_cast (a b : Sc) : ((sadd a b).val : ZMod Config.n) = a.val + b.val := by
  simp [ZMod.natCast_mod]

theorem smul_cast (a b : Sc) : ((smul a b).val : ZMod Config.n) = a.val * b.val := by
  simp [ZMod.natCast_mod]

theorem sneg_cast (a : Sc) : ((sneg a).val : ZMod Config.n) = -a.val := by
  simp [ZMod.natCast_mod, Nat.cast_sub a.isLt.le]

theorem ssub_cast (a b : Sc) : ((ssub a b).val : ZMod Config.n) = a.val - b.val := by
  simp [ZMod.natCast_mod, Nat.cast_sub b.isLt.le, sub_eq_add_neg]

/-- A field element is the one whose cast it has. -/
theorem Fe.ext_cast {a b : Fe} (h : (a.val : ZMod Config.p) = b.val) : a = b := by
  have := (ZMod.natCast_eq_natCast_iff' a.val b.val Config.p).1 h
  rw [Nat.mod_eq_of_lt a.isLt, Nat.mod_eq_of_lt b.isLt] at this
  exact Fin.ext this

/-- A field element is zero exactly when its cast is. -/
theorem Fe.cast_eq_zero (a : Fe) : (a.val : ZMod Config.p) = 0 ↔ a.val = 0 := by
  rw [ZMod.natCast_eq_zero_iff]
  exact ⟨fun h => Nat.eq_zero_of_dvd_of_lt h a.isLt, fun h => h ▸ dvd_zero _⟩

/-! ### Corner values (42_scalar.md R227) -/

theorem fneg_zero : fneg (feOfNat 0) = feOfNat 0 := by decide

theorem sneg_zero : sneg (scOfNat 0) = scOfNat 0 := by decide

theorem ssub_self (a : Sc) : ssub a a = scOfNat 0 := by
  apply Fin.ext
  have := a.isLt
  simp only [ssub_val, scOfNat_val, Nat.zero_mod]
  rw [show a.val + (Config.n - a.val) = Config.n by omega, Nat.mod_self]

/-! ### Power by squaring -/

theorem powModGo_eq (m bits base e acc : Nat) (he : e < 2 ^ bits) (hacc : acc % m = acc) :
    powModGo m bits base e acc = acc * base ^ e % m := by
  induction bits generalizing base e acc with
  | zero =>
    have : e = 0 := by simpa using he
    simp [powModGo, this, hacc]
  | succ bits ih =>
    have hhalf : e / 2 < 2 ^ bits := by
      rw [Nat.div_lt_iff_lt_mul (by decide)]
      simpa [pow_succ] using he
    have hstep : (base * base % m) ^ (e / 2) % m = base ^ (2 * (e / 2)) % m := by
      rw [← Nat.pow_mod, pow_mul, pow_two]
    rw [powModGo]
    by_cases hodd : e % 2 = 1
    · rw [if_pos hodd, ih _ _ _ hhalf (Nat.mod_mod _ _), Nat.mul_mod, hstep, ← Nat.mul_mod,
        Nat.mod_mul_mod, mul_assoc, ← pow_succ']
      congr 3
      omega
    · rw [if_neg hodd, ih _ _ _ hhalf hacc, Nat.mul_mod, hstep, ← Nat.mul_mod]
      congr 3
      omega

/-- `powMod` is the power reduced once. -/
theorem powMod_eq (m base e : Nat) (he : e < 2 ^ 256) : powMod m base e = base ^ e % m := by
  rw [powMod, powModGo_eq m 256 _ e _ he (Nat.mod_mod _ _), Nat.mod_mul_mod, one_mul, ← Nat.pow_mod]

/-- `sinv(a) = a^(n-2) mod n` (00_scope.md R13). -/
theorem sinv_val (a : Sc) : (sinv a).val = a.val ^ (Config.n - 2) % Config.n := by
  simp only [sinv, scOfNat_val]
  rw [powMod_eq _ _ _ (by decide), Nat.mod_mod]

/-- `finv(a)` as a power (log 10). -/
theorem finv_val (a : Fe) : (finv a).val = a.val ^ (Config.p - 2) % Config.p := by
  simp only [finv, feOfNat_val]
  rw [powMod_eq _ _ _ (by decide), Nat.mod_mod]

end Sys2Proof.Machine
end

