-- ==== Sys2Proof/Laws/Primes.lean ====
section
/-! SUPPORT. The two moduli are prime (00_scope.md R9: "`p` and `n` pass a primality test"), by Pratt certificates, and
what that gives the two inverses (00_scope.md R12, R13; log 10). -/

namespace Sys2Proof.Machine

/-- A Pratt certificate: `a` has order `q - 1`, and each prime factor `r` of `q - 1` stands with `(q - 1) / r`. -/
theorem prime_of_pratt (q : Nat) (a : ZMod q) (factors : List (Nat × Nat))
    (hprod : (factors.map Prod.fst).prod = q - 1) (hone : a ^ (q - 1) = 1)
    (hfact : ∀ f ∈ factors, f.1.Prime ∧ f.1 * f.2 = q - 1 ∧ a ^ f.2 ≠ 1) : q.Prime := by
  refine lucas_primality q a hone fun r hr hdvd => ?_
  rw [← hprod] at hdvd
  obtain ⟨r', hr', hdvd'⟩ := (hr.prime.dvd_prod_iff).1 hdvd
  obtain ⟨f, hf, rfl⟩ := List.mem_map.1 hr'
  obtain ⟨hp, hmul, hne⟩ := hfact f hf
  obtain rfl := (Nat.prime_dvd_prime_iff_eq hr hp).1 hdvd'
  rwa [← hmul, Nat.mul_div_cancel_left _ hr.pos]

theorem prime_44706919 : Nat.Prime 44706919 := by
  refine prime_of_pratt 44706919 6
    [(2, 22353459),
     (3, 14902306),
     (797, 56094),
     (9349, 4782)]
    (by norm_num) (by norm_num; reduce_mod_char) ?_
  intro f hf
  simp only [List.mem_cons, List.not_mem_nil, or_false] at hf
  rcases hf with rfl | rfl | rfl | rfl
  · exact ⟨by norm_num, by norm_num, by reduce_mod_char; decide⟩
  · exact ⟨by norm_num, by norm_num, by reduce_mod_char; decide⟩
  · exact ⟨by norm_num, by norm_num, by reduce_mod_char; decide⟩
  · exact ⟨by norm_num, by norm_num, by reduce_mod_char; decide⟩

theorem prime_107590001 : Nat.Prime 107590001 := by
  refine prime_of_pratt 107590001 3
    [(2, 53795000),
     (2, 53795000),
     (2, 53795000),
     (2, 53795000),
     (5, 21518000),
     (5, 21518000),
     (5, 21518000),
     (5, 21518000),
     (7, 15370000),
     (29, 3710000),
     (53, 2030000)]
    (by norm_num) (by norm_num; reduce_mod_char) ?_
  intro f hf
  simp only [List.mem_cons, List.not_mem_nil, or_false] at hf
  rcases hf with rfl | rfl | rfl | rfl | rfl | rfl | rfl | rfl | rfl | rfl | rfl
  · exact ⟨by norm_num, by norm_num, by reduce_mod_char; decide⟩
  · exact ⟨by norm_num, by norm_num, by reduce_mod_char; decide⟩
  · exact ⟨by norm_num, by norm_num, by reduce_mod_char; decide⟩
  · exact ⟨by norm_num, by norm_num, by reduce_mod_char; decide⟩
  · exact ⟨by norm_num, by norm_num, by reduce_mod_char; decide⟩
  · exact ⟨by norm_num, by norm_num, by reduce_mod_char; decide⟩
  · exact ⟨by norm_num, by norm_num, by reduce_mod_char; decide⟩
  · exact ⟨by norm_num, by norm_num, by reduce_mod_char; decide⟩
  · exact ⟨by norm_num, by norm_num, by reduce_mod_char; decide⟩
  · exact ⟨by norm_num, by norm_num, by reduce_mod_char; decide⟩
  · exact ⟨by norm_num, by norm_num, by reduce_mod_char; decide⟩

theorem prime_545358713 : Nat.Prime 545358713 := by
  refine prime_of_pratt 545358713 5
    [(2, 272679356),
     (2, 272679356),
     (2, 272679356),
     (41, 13301432),
     (59, 9243368),
     (28181, 19352)]
    (by norm_num) (by norm_num; reduce_mod_char) ?_
  intro f hf
  simp only [List.mem_cons, List.not_mem_nil, or_false] at hf
  rcases hf with rfl | rfl | rfl | rfl | rfl | rfl
  · exact ⟨by norm_num, by norm_num, by reduce_mod_char; decide⟩
  · exact ⟨by norm_num, by norm_num, by reduce_mod_char; decide⟩
  · exact ⟨by norm_num, by norm_num, by reduce_mod_char; decide⟩
  · exact ⟨by norm_num, by norm_num, by reduce_mod_char; decide⟩
  · exact ⟨by norm_num, by norm_num, by reduce_mod_char; decide⟩
  · exact ⟨by norm_num, by norm_num, by reduce_mod_char; decide⟩

theorem prime_297159362677 : Nat.Prime 297159362677 := by
  refine prime_of_pratt 297159362677 2
    [(2, 148579681338),
     (2, 148579681338),
     (3, 99053120892),
     (3, 99053120892),
     (11, 27014487516),
     (461, 644597316),
     (1627771, 182556)]
    (by norm_num) (by norm_num; reduce_mod_char) ?_
  intro f hf
  simp only [List.mem_cons, List.not_mem_nil, or_false] at hf
  rcases hf with rfl | rfl | rfl | rfl | rfl | rfl | rfl
  · exact ⟨by norm_num, by norm_num, by reduce_mod_char; decide⟩
  · exact ⟨by norm_num, by norm_num, by reduce_mod_char; decide⟩
  · exact ⟨by norm_num, by norm_num, by reduce_mod_char; decide⟩
  · exact ⟨by norm_num, by norm_num, by reduce_mod_char; decide⟩
  · exact ⟨by norm_num, by norm_num, by reduce_mod_char; decide⟩
  · exact ⟨by norm_num, by norm_num, by reduce_mod_char; decide⟩
  · exact ⟨by norm_num, by norm_num, by reduce_mod_char; decide⟩

theorem prime_173378833005251801 : Nat.Prime 173378833005251801 := by
  refine prime_of_pratt 173378833005251801 6
    [(2, 86689416502625900),
     (2, 86689416502625900),
     (2, 86689416502625900),
     (5, 34675766601050360),
     (5, 34675766601050360),
     (2621, 66149879055800),
     (24809, 6988545810200),
     (13331831, 13004877800)]
    (by norm_num) (by norm_num; reduce_mod_char) ?_
  intro f hf
  simp only [List.mem_cons, List.not_mem_nil, or_false] at hf
  rcases hf with rfl | rfl | rfl | rfl | rfl | rfl | rfl | rfl
  · exact ⟨by norm_num, by norm_num, by reduce_mod_char; decide⟩
  · exact ⟨by norm_num, by norm_num, by reduce_mod_char; decide⟩
  · exact ⟨by norm_num, by norm_num, by reduce_mod_char; decide⟩
  · exact ⟨by norm_num, by norm_num, by reduce_mod_char; decide⟩
  · exact ⟨by norm_num, by norm_num, by reduce_mod_char; decide⟩
  · exact ⟨by norm_num, by norm_num, by reduce_mod_char; decide⟩
  · exact ⟨by norm_num, by norm_num, by reduce_mod_char; decide⟩
  · exact ⟨by norm_num, by norm_num, by reduce_mod_char; decide⟩

theorem prime_22149492674086928081353 : Nat.Prime 22149492674086928081353 := by
  refine prime_of_pratt 22149492674086928081353 5
    [(2, 11074746337043464040676),
     (2, 11074746337043464040676),
     (2, 11074746337043464040676),
     (3, 7383164224695642693784),
     (5323, 4161091992126043224),
     (173378833005251801, 127752)]
    (by norm_num) (by norm_num; reduce_mod_char) ?_
  intro f hf
  simp only [List.mem_cons, List.not_mem_nil, or_false] at hf
  rcases hf with rfl | rfl | rfl | rfl | rfl | rfl
  · exact ⟨by norm_num, by norm_num, by reduce_mod_char; decide⟩
  · exact ⟨by norm_num, by norm_num, by reduce_mod_char; decide⟩
  · exact ⟨by norm_num, by norm_num, by reduce_mod_char; decide⟩
  · exact ⟨by norm_num, by norm_num, by reduce_mod_char; decide⟩
  · exact ⟨by norm_num, by norm_num, by reduce_mod_char; decide⟩
  · exact ⟨prime_173378833005251801, by norm_num, by reduce_mod_char; decide⟩

theorem prime_132896956044521568488119 : Nat.Prime 132896956044521568488119 := by
  refine prime_of_pratt 132896956044521568488119 6
    [(2, 66448478022260784244059),
     (3, 44298985348173856162706),
     (22149492674086928081353, 6)]
    (by norm_num) (by norm_num; reduce_mod_char) ?_
  intro f hf
  simp only [List.mem_cons, List.not_mem_nil, or_false] at hf
  rcases hf with rfl | rfl | rfl
  · exact ⟨by norm_num, by norm_num, by reduce_mod_char; decide⟩
  · exact ⟨by norm_num, by norm_num, by reduce_mod_char; decide⟩
  · exact ⟨prime_22149492674086928081353, by norm_num, by reduce_mod_char; decide⟩

theorem prime_255515944373312847190720520512484175977 : Nat.Prime 255515944373312847190720520512484175977 := by
  refine prime_of_pratt 255515944373312847190720520512484175977 3
    [(2, 127757972186656423595360260256242087988),
     (2, 127757972186656423595360260256242087988),
     (2, 127757972186656423595360260256242087988),
     (7, 36502277767616121027245788644640596568),
     (7, 36502277767616121027245788644640596568),
     (11, 23228722215755713380974592773862197816),
     (1627, 157047292177819820031174259688066488),
     (2657, 96167084822473785167753300907972968),
     (4423, 57769826898782013834664372713652312),
     (41201, 6201692783507993669831327407404776),
     (96557, 2646270538369179315748423423599368),
     (7240687, 35288908963101546467996824129048),
     (107590001, 2374904191824599455024826335976)]
    (by norm_num) (by norm_num; reduce_mod_char) ?_
  intro f hf
  simp only [List.mem_cons, List.not_mem_nil, or_false] at hf
  rcases hf with rfl | rfl | rfl | rfl | rfl | rfl | rfl | rfl | rfl | rfl | rfl | rfl | rfl
  · exact ⟨by norm_num, by norm_num, by reduce_mod_char; decide⟩
  · exact ⟨by norm_num, by norm_num, by reduce_mod_char; decide⟩
  · exact ⟨by norm_num, by norm_num, by reduce_mod_char; decide⟩
  · exact ⟨by norm_num, by norm_num, by reduce_mod_char; decide⟩
  · exact ⟨by norm_num, by norm_num, by reduce_mod_char; decide⟩
  · exact ⟨by norm_num, by norm_num, by reduce_mod_char; decide⟩
  · exact ⟨by norm_num, by norm_num, by reduce_mod_char; decide⟩
  · exact ⟨by norm_num, by norm_num, by reduce_mod_char; decide⟩
  · exact ⟨by norm_num, by norm_num, by reduce_mod_char; decide⟩
  · exact ⟨by norm_num, by norm_num, by reduce_mod_char; decide⟩
  · exact ⟨by norm_num, by norm_num, by reduce_mod_char; decide⟩
  · exact ⟨by norm_num, by norm_num, by reduce_mod_char; decide⟩
  · exact ⟨prime_107590001, by norm_num, by reduce_mod_char; decide⟩

theorem prime_29047611873442575647497758179 : Nat.Prime 29047611873442575647497758179 := by
  refine prime_of_pratt 29047611873442575647497758179 2
    [(2, 14523805936721287823748879089),
     (293, 99138607076595821322517946),
     (305873, 94966250285061367454786),
     (545358713, 53263313083699784306),
     (297159362677, 97750956294169114)]
    (by norm_num) (by norm_num; reduce_mod_char) ?_
  intro f hf
  simp only [List.mem_cons, List.not_mem_nil, or_false] at hf
  rcases hf with rfl | rfl | rfl | rfl | rfl
  · exact ⟨by norm_num, by norm_num, by reduce_mod_char; decide⟩
  · exact ⟨by norm_num, by norm_num, by reduce_mod_char; decide⟩
  · exact ⟨by norm_num, by norm_num, by reduce_mod_char; decide⟩
  · exact ⟨prime_545358713, by norm_num, by reduce_mod_char; decide⟩
  · exact ⟨prime_297159362677, by norm_num, by reduce_mod_char; decide⟩

theorem prime_341948486974166000522343609283189 : Nat.Prime 341948486974166000522343609283189 := by
  refine prime_of_pratt 341948486974166000522343609283189 2
    [(2, 170974243487083000261171804641594),
     (2, 170974243487083000261171804641594),
     (3, 113982828991388666840781203094396),
     (3, 113982828991388666840781203094396),
     (3, 113982828991388666840781203094396),
     (109, 3137142082331798169929757883332),
     (29047611873442575647497758179, 11772)]
    (by norm_num) (by norm_num; reduce_mod_char) ?_
  intro f hf
  simp only [List.mem_cons, List.not_mem_nil, or_false] at hf
  rcases hf with rfl | rfl | rfl | rfl | rfl | rfl | rfl
  · exact ⟨by norm_num, by norm_num, by reduce_mod_char; decide⟩
  · exact ⟨by norm_num, by norm_num, by reduce_mod_char; decide⟩
  · exact ⟨by norm_num, by norm_num, by reduce_mod_char; decide⟩
  · exact ⟨by norm_num, by norm_num, by reduce_mod_char; decide⟩
  · exact ⟨by norm_num, by norm_num, by reduce_mod_char; decide⟩
  · exact ⟨by norm_num, by norm_num, by reduce_mod_char; decide⟩
  · exact ⟨prime_29047611873442575647497758179, by norm_num, by reduce_mod_char; decide⟩

theorem prime_174723607534414371449 : Nat.Prime 174723607534414371449 := by
  refine prime_of_pratt 174723607534414371449 3
    [(2, 87361803767207185724),
     (2, 87361803767207185724),
     (2, 87361803767207185724),
     (17, 10277859266730257144),
     (59, 2961417076854480872),
     (4051, 43130981864827048),
     (120233, 1453208416444856),
     (44706919, 3908200597192)]
    (by norm_num) (by norm_num; reduce_mod_char) ?_
  intro f hf
  simp only [List.mem_cons, List.not_mem_nil, or_false] at hf
  rcases hf with rfl | rfl | rfl | rfl | rfl | rfl | rfl | rfl
  · exact ⟨by norm_num, by norm_num, by reduce_mod_char; decide⟩
  · exact ⟨by norm_num, by norm_num, by reduce_mod_char; decide⟩
  · exact ⟨by norm_num, by norm_num, by reduce_mod_char; decide⟩
  · exact ⟨by norm_num, by norm_num, by reduce_mod_char; decide⟩
  · exact ⟨by norm_num, by norm_num, by reduce_mod_char; decide⟩
  · exact ⟨by norm_num, by norm_num, by reduce_mod_char; decide⟩
  · exact ⟨by norm_num, by norm_num, by reduce_mod_char; decide⟩
  · exact ⟨prime_44706919, by norm_num, by reduce_mod_char; decide⟩

theorem prime_107361793816595537 : Nat.Prime 107361793816595537 := by
  refine prime_of_pratt 107361793816595537 3
    [(2, 53680896908297768),
     (2, 53680896908297768),
     (2, 53680896908297768),
     (2, 53680896908297768),
     (16699, 6429234913264),
     (85831, 1250851019056),
     (4681609, 22932669904)]
    (by norm_num) (by norm_num; reduce_mod_char) ?_
  intro f hf
  simp only [List.mem_cons, List.not_mem_nil, or_false] at hf
  rcases hf with rfl | rfl | rfl | rfl | rfl | rfl | rfl
  · exact ⟨by norm_num, by norm_num, by reduce_mod_char; decide⟩
  · exact ⟨by norm_num, by norm_num, by reduce_mod_char; decide⟩
  · exact ⟨by norm_num, by norm_num, by reduce_mod_char; decide⟩
  · exact ⟨by norm_num, by norm_num, by reduce_mod_char; decide⟩
  · exact ⟨by norm_num, by norm_num, by reduce_mod_char; decide⟩
  · exact ⟨by norm_num, by norm_num, by reduce_mod_char; decide⟩
  · exact ⟨by norm_num, by norm_num, by reduce_mod_char; decide⟩

theorem prime_205115282021455665897114700593932402728804164701536103180137503955397371 : Nat.Prime 205115282021455665897114700593932402728804164701536103180137503955397371 := by
  refine prime_of_pratt 205115282021455665897114700593932402728804164701536103180137503955397371 10
    [(2, 102557641010727832948557350296966201364402082350768051590068751977698685),
     (3, 68371760673818555299038233531310800909601388233845367726712501318465790),
     (5, 41023056404291133179422940118786480545760832940307220636027500791079474),
     (29, 7072940759360540203348782779101117335476005679363313902763362205358530),
     (29, 7072940759360540203348782779101117335476005679363313902763362205358530),
     (31, 6616622000692118254745635503030077507380779506501164618714113030819270),
     (7723, 26559016188198325248881872406310035313842310591937861346644762910190),
     (132896956044521568488119, 1543415952677955745309227852991199086604869270230),
     (255515944373312847190720520512484175977, 802749442992798076634733441528810)]
    (by norm_num) (by norm_num; reduce_mod_char) ?_
  intro f hf
  simp only [List.mem_cons, List.not_mem_nil, or_false] at hf
  rcases hf with rfl | rfl | rfl | rfl | rfl | rfl | rfl | rfl | rfl
  · exact ⟨by norm_num, by norm_num, by reduce_mod_char; decide⟩
  · exact ⟨by norm_num, by norm_num, by reduce_mod_char; decide⟩
  · exact ⟨by norm_num, by norm_num, by reduce_mod_char; decide⟩
  · exact ⟨by norm_num, by norm_num, by reduce_mod_char; decide⟩
  · exact ⟨by norm_num, by norm_num, by reduce_mod_char; decide⟩
  · exact ⟨by norm_num, by norm_num, by reduce_mod_char; decide⟩
  · exact ⟨by norm_num, by norm_num, by reduce_mod_char; decide⟩
  · exact ⟨prime_132896956044521568488119, by norm_num, by reduce_mod_char; decide⟩
  · exact ⟨prime_255515944373312847190720520512484175977, by norm_num, by reduce_mod_char; decide⟩

/-- `p` is prime (00_scope.md R9). -/
theorem p_prime : Nat.Prime Config.p := by
  show Nat.Prime 115792089237316195423570985008687907853269984665640564039457584007908834671663
  refine prime_of_pratt 115792089237316195423570985008687907853269984665640564039457584007908834671663 3
    [(2, 57896044618658097711785492504343953926634992332820282019728792003954417335831),
     (3, 38597363079105398474523661669562635951089994888546854679819194669302944890554),
     (7, 16541727033902313631938712144098272550467140666520080577065369143986976381666),
     (13441, 8614841844901137967678817424945160914609774917464516333565775166126689582),
     (205115282021455665897114700593932402728804164701536103180137503955397371, 564522)]
    (by norm_num) (by norm_num; reduce_mod_char) ?_
  intro f hf
  simp only [List.mem_cons, List.not_mem_nil, or_false] at hf
  rcases hf with rfl | rfl | rfl | rfl | rfl
  · exact ⟨by norm_num, by norm_num, by reduce_mod_char; decide⟩
  · exact ⟨by norm_num, by norm_num, by reduce_mod_char; decide⟩
  · exact ⟨by norm_num, by norm_num, by reduce_mod_char; decide⟩
  · exact ⟨by norm_num, by norm_num, by reduce_mod_char; decide⟩
  · exact ⟨prime_205115282021455665897114700593932402728804164701536103180137503955397371, by norm_num, by reduce_mod_char; decide⟩

/-- `n` is prime (00_scope.md R9). -/
theorem n_prime : Nat.Prime Config.n := by
  show Nat.Prime 115792089237316195423570985008687907852837564279074904382605163141518161494337
  refine prime_of_pratt 115792089237316195423570985008687907852837564279074904382605163141518161494337 7
    [(2, 57896044618658097711785492504343953926418782139537452191302581570759080747168),
     (2, 57896044618658097711785492504343953926418782139537452191302581570759080747168),
     (2, 57896044618658097711785492504343953926418782139537452191302581570759080747168),
     (2, 57896044618658097711785492504343953926418782139537452191302581570759080747168),
     (2, 57896044618658097711785492504343953926418782139537452191302581570759080747168),
     (2, 57896044618658097711785492504343953926418782139537452191302581570759080747168),
     (3, 38597363079105398474523661669562635950945854759691634794201721047172720498112),
     (149, 777128115686685875325979765158979247334480297174999358272517873433007795264),
     (631, 183505688173242781970793954054972912603546060664144063997789481999236389056),
     (107361793816595537, 1078522304080742162682399010554089082520748534743704783428928),
     (174723607534414371449, 662715765037699607481235088557493206623080876315205958464),
     (341948486974166000522343609283189, 338624364920977752681389262317185522840540224)]
    (by norm_num) (by norm_num; reduce_mod_char) ?_
  intro f hf
  simp only [List.mem_cons, List.not_mem_nil, or_false] at hf
  rcases hf with rfl | rfl | rfl | rfl | rfl | rfl | rfl | rfl | rfl | rfl | rfl | rfl
  · exact ⟨by norm_num, by norm_num, by reduce_mod_char; decide⟩
  · exact ⟨by norm_num, by norm_num, by reduce_mod_char; decide⟩
  · exact ⟨by norm_num, by norm_num, by reduce_mod_char; decide⟩
  · exact ⟨by norm_num, by norm_num, by reduce_mod_char; decide⟩
  · exact ⟨by norm_num, by norm_num, by reduce_mod_char; decide⟩
  · exact ⟨by norm_num, by norm_num, by reduce_mod_char; decide⟩
  · exact ⟨by norm_num, by norm_num, by reduce_mod_char; decide⟩
  · exact ⟨by norm_num, by norm_num, by reduce_mod_char; decide⟩
  · exact ⟨by norm_num, by norm_num, by reduce_mod_char; decide⟩
  · exact ⟨prime_107361793816595537, by norm_num, by reduce_mod_char; decide⟩
  · exact ⟨prime_174723607534414371449, by norm_num, by reduce_mod_char; decide⟩
  · exact ⟨prime_341948486974166000522343609283189, by norm_num, by reduce_mod_char; decide⟩

/-- `finv(a)` inverts every nonzero field element (00_scope.md R12; log 10). -/
theorem fmul_finv (a : Fe) (ha : a.val ≠ 0) : fmul a (finv a) = feOfNat 1 := by
  have hp : Fact (Nat.Prime Config.p) := ⟨p_prime⟩
  have hne : (a.val : ZMod Config.p) ≠ 0 := fun h => ha ((Fe.cast_eq_zero a).1 h)
  apply Fe.ext_cast
  rw [fmul_cast, finv_val, ZMod.natCast_mod, Nat.cast_pow, ← pow_succ', feOfNat_cast, Nat.cast_one]
  exact ZMod.pow_card_sub_one_eq_one hne

/-- `sinv(a)` inverts every nonzero scalar (00_scope.md R13). -/
theorem smul_sinv (a : Sc) (ha : a.val ≠ 0) : (smul a (sinv a)).val = 1 := by
  have hn : Fact (Nat.Prime Config.n) := ⟨n_prime⟩
  have hne : (a.val : ZMod Config.n) ≠ 0 := fun h => ha <| by
    rw [ZMod.natCast_eq_zero_iff] at h
    exact Nat.eq_zero_of_dvd_of_lt h a.isLt
  have h1 : ((smul a (sinv a)).val : ZMod Config.n) = (1 : Nat) := by
    rw [smul_cast, sinv_val, ZMod.natCast_mod, Nat.cast_pow, ← pow_succ', Nat.cast_one]
    exact ZMod.pow_card_sub_one_eq_one hne
  rw [ZMod.natCast_eq_natCast_iff', Nat.mod_eq_of_lt (smul a (sinv a)).isLt] at h1
  exact h1

end Sys2Proof.Machine
end

