-- ==== Sys2Proof/Laws/State.lean ====
section
/-! SUPPORT. One lemma per field of `State` and per update of it, so that no later proof unfolds a record update. -/

namespace Sys2Proof.Machine

/-! ### `State.writeS` -/

@[simp] theorem State.writeS_sRaw (s : State) (i : SSel) (v : Sc) : (s.writeS i v).sRaw = s.sRaw.set i (scToRaw v) := rfl
@[simp] theorem State.writeS_fRaw (s : State) (i : SSel) (v : Sc) : (s.writeS i v).fRaw = s.fRaw := rfl
@[simp] theorem State.writeS_aReg (s : State) (i : SSel) (v : Sc) : (s.writeS i v).aReg = s.aReg := rfl
@[simp] theorem State.writeS_jReg (s : State) (i : SSel) (v : Sc) : (s.writeS i v).jReg = s.jReg := rfl
@[simp] theorem State.writeS_tReg (s : State) (i : SSel) (v : Sc) : (s.writeS i v).tReg = s.tReg := rfl
@[simp] theorem State.writeS_wBuf (s : State) (i : SSel) (v : Sc) : (s.writeS i v).wBuf = s.wBuf := rfl
@[simp] theorem State.writeS_tflag (s : State) (i : SSel) (v : Sc) : (s.writeS i v).tflag = s.tflag := rfl
@[simp] theorem State.writeS_retval (s : State) (i : SSel) (v : Sc) : (s.writeS i v).retval = s.retval := rfl
@[simp] theorem State.writeS_seed (s : State) (i : SSel) (v : Sc) : (s.writeS i v).seed = s.seed := rfl
@[simp] theorem State.writeS_fault (s : State) (i : SSel) (v : Sc) : (s.writeS i v).fault = s.fault := rfl
@[simp] theorem State.writeS_faultInfo (s : State) (i : SSel) (v : Sc) : (s.writeS i v).faultInfo = s.faultInfo := rfl
@[simp] theorem State.writeS_gctx (s : State) (i : SSel) (v : Sc) : (s.writeS i v).gctx = s.gctx := rfl
@[simp] theorem State.writeS_mctx (s : State) (i : SSel) (v : Sc) : (s.writeS i v).mctx = s.mctx := rfl
@[simp] theorem State.writeS_staticPrecomp (s : State) (i : SSel) (v : Sc) : (s.writeS i v).staticPrecomp = s.staticPrecomp := rfl
@[simp] theorem State.writeS_leak (s : State) (i : SSel) (v : Sc) : (s.writeS i v).leak = s.leak := rfl
@[simp] theorem State.writeS_host (s : State) (i : SSel) (v : Sc) : (s.writeS i v).host = s.host := rfl
@[simp] theorem State.writeS_response (s : State) (i : SSel) (v : Sc) : (s.writeS i v).response = s.response := rfl
@[simp] theorem State.writeS_freeCount (s : State) (i : SSel) (v : Sc) : (s.writeS i v).freeCount = s.freeCount := rfl

/-! ### `State.writeF` -/

@[simp] theorem State.writeF_sRaw (s : State) (i : FSel) (v : Fe) : (s.writeF i v).sRaw = s.sRaw := rfl
@[simp] theorem State.writeF_fRaw (s : State) (i : FSel) (v : Fe) : (s.writeF i v).fRaw = s.fRaw.set i (feToRaw v) := rfl
@[simp] theorem State.writeF_aReg (s : State) (i : FSel) (v : Fe) : (s.writeF i v).aReg = s.aReg := rfl
@[simp] theorem State.writeF_jReg (s : State) (i : FSel) (v : Fe) : (s.writeF i v).jReg = s.jReg := rfl
@[simp] theorem State.writeF_tReg (s : State) (i : FSel) (v : Fe) : (s.writeF i v).tReg = s.tReg := rfl
@[simp] theorem State.writeF_wBuf (s : State) (i : FSel) (v : Fe) : (s.writeF i v).wBuf = s.wBuf := rfl
@[simp] theorem State.writeF_tflag (s : State) (i : FSel) (v : Fe) : (s.writeF i v).tflag = s.tflag := rfl
@[simp] theorem State.writeF_retval (s : State) (i : FSel) (v : Fe) : (s.writeF i v).retval = s.retval := rfl
@[simp] theorem State.writeF_seed (s : State) (i : FSel) (v : Fe) : (s.writeF i v).seed = s.seed := rfl
@[simp] theorem State.writeF_fault (s : State) (i : FSel) (v : Fe) : (s.writeF i v).fault = s.fault := rfl
@[simp] theorem State.writeF_faultInfo (s : State) (i : FSel) (v : Fe) : (s.writeF i v).faultInfo = s.faultInfo := rfl
@[simp] theorem State.writeF_gctx (s : State) (i : FSel) (v : Fe) : (s.writeF i v).gctx = s.gctx := rfl
@[simp] theorem State.writeF_mctx (s : State) (i : FSel) (v : Fe) : (s.writeF i v).mctx = s.mctx := rfl
@[simp] theorem State.writeF_staticPrecomp (s : State) (i : FSel) (v : Fe) : (s.writeF i v).staticPrecomp = s.staticPrecomp := rfl
@[simp] theorem State.writeF_leak (s : State) (i : FSel) (v : Fe) : (s.writeF i v).leak = s.leak := rfl
@[simp] theorem State.writeF_host (s : State) (i : FSel) (v : Fe) : (s.writeF i v).host = s.host := rfl
@[simp] theorem State.writeF_response (s : State) (i : FSel) (v : Fe) : (s.writeF i v).response = s.response := rfl
@[simp] theorem State.writeF_freeCount (s : State) (i : FSel) (v : Fe) : (s.writeF i v).freeCount = s.freeCount := rfl

/-! ### `State.writeA` -/

@[simp] theorem State.writeA_sRaw (s : State) (i : ASel) (v : Ge) : (s.writeA i v).sRaw = s.sRaw := rfl
@[simp] theorem State.writeA_fRaw (s : State) (i : ASel) (v : Ge) : (s.writeA i v).fRaw = s.fRaw := rfl
@[simp] theorem State.writeA_aReg (s : State) (i : ASel) (v : Ge) : (s.writeA i v).aReg = s.aReg.set i (geToReg v) := rfl
@[simp] theorem State.writeA_jReg (s : State) (i : ASel) (v : Ge) : (s.writeA i v).jReg = s.jReg := rfl
@[simp] theorem State.writeA_tReg (s : State) (i : ASel) (v : Ge) : (s.writeA i v).tReg = s.tReg := rfl
@[simp] theorem State.writeA_wBuf (s : State) (i : ASel) (v : Ge) : (s.writeA i v).wBuf = s.wBuf := rfl
@[simp] theorem State.writeA_tflag (s : State) (i : ASel) (v : Ge) : (s.writeA i v).tflag = s.tflag := rfl
@[simp] theorem State.writeA_retval (s : State) (i : ASel) (v : Ge) : (s.writeA i v).retval = s.retval := rfl
@[simp] theorem State.writeA_seed (s : State) (i : ASel) (v : Ge) : (s.writeA i v).seed = s.seed := rfl
@[simp] theorem State.writeA_fault (s : State) (i : ASel) (v : Ge) : (s.writeA i v).fault = s.fault := rfl
@[simp] theorem State.writeA_faultInfo (s : State) (i : ASel) (v : Ge) : (s.writeA i v).faultInfo = s.faultInfo := rfl
@[simp] theorem State.writeA_gctx (s : State) (i : ASel) (v : Ge) : (s.writeA i v).gctx = s.gctx := rfl
@[simp] theorem State.writeA_mctx (s : State) (i : ASel) (v : Ge) : (s.writeA i v).mctx = s.mctx := rfl
@[simp] theorem State.writeA_staticPrecomp (s : State) (i : ASel) (v : Ge) : (s.writeA i v).staticPrecomp = s.staticPrecomp := rfl
@[simp] theorem State.writeA_leak (s : State) (i : ASel) (v : Ge) : (s.writeA i v).leak = s.leak := rfl
@[simp] theorem State.writeA_host (s : State) (i : ASel) (v : Ge) : (s.writeA i v).host = s.host := rfl
@[simp] theorem State.writeA_response (s : State) (i : ASel) (v : Ge) : (s.writeA i v).response = s.response := rfl
@[simp] theorem State.writeA_freeCount (s : State) (i : ASel) (v : Ge) : (s.writeA i v).freeCount = s.freeCount := rfl

/-! ### `State.writeJ` -/

@[simp] theorem State.writeJ_sRaw (s : State) (i : JSel) (v : Gej) : (s.writeJ i v).sRaw = s.sRaw := rfl
@[simp] theorem State.writeJ_fRaw (s : State) (i : JSel) (v : Gej) : (s.writeJ i v).fRaw = s.fRaw := rfl
@[simp] theorem State.writeJ_aReg (s : State) (i : JSel) (v : Gej) : (s.writeJ i v).aReg = s.aReg := rfl
@[simp] theorem State.writeJ_jReg (s : State) (i : JSel) (v : Gej) : (s.writeJ i v).jReg = s.jReg.set i (gejToReg v) := rfl
@[simp] theorem State.writeJ_tReg (s : State) (i : JSel) (v : Gej) : (s.writeJ i v).tReg = s.tReg := rfl
@[simp] theorem State.writeJ_wBuf (s : State) (i : JSel) (v : Gej) : (s.writeJ i v).wBuf = s.wBuf := rfl
@[simp] theorem State.writeJ_tflag (s : State) (i : JSel) (v : Gej) : (s.writeJ i v).tflag = s.tflag := rfl
@[simp] theorem State.writeJ_retval (s : State) (i : JSel) (v : Gej) : (s.writeJ i v).retval = s.retval := rfl
@[simp] theorem State.writeJ_seed (s : State) (i : JSel) (v : Gej) : (s.writeJ i v).seed = s.seed := rfl
@[simp] theorem State.writeJ_fault (s : State) (i : JSel) (v : Gej) : (s.writeJ i v).fault = s.fault := rfl
@[simp] theorem State.writeJ_faultInfo (s : State) (i : JSel) (v : Gej) : (s.writeJ i v).faultInfo = s.faultInfo := rfl
@[simp] theorem State.writeJ_gctx (s : State) (i : JSel) (v : Gej) : (s.writeJ i v).gctx = s.gctx := rfl
@[simp] theorem State.writeJ_mctx (s : State) (i : JSel) (v : Gej) : (s.writeJ i v).mctx = s.mctx := rfl
@[simp] theorem State.writeJ_staticPrecomp (s : State) (i : JSel) (v : Gej) : (s.writeJ i v).staticPrecomp = s.staticPrecomp := rfl
@[simp] theorem State.writeJ_leak (s : State) (i : JSel) (v : Gej) : (s.writeJ i v).leak = s.leak := rfl
@[simp] theorem State.writeJ_host (s : State) (i : JSel) (v : Gej) : (s.writeJ i v).host = s.host := rfl
@[simp] theorem State.writeJ_response (s : State) (i : JSel) (v : Gej) : (s.writeJ i v).response = s.response := rfl
@[simp] theorem State.writeJ_freeCount (s : State) (i : JSel) (v : Gej) : (s.writeJ i v).freeCount = s.freeCount := rfl

/-! ### `State.writeT` -/

@[simp] theorem State.writeT_sRaw (s : State) (i : TSel) (v : St) : (s.writeT i v).sRaw = s.sRaw := rfl
@[simp] theorem State.writeT_fRaw (s : State) (i : TSel) (v : St) : (s.writeT i v).fRaw = s.fRaw := rfl
@[simp] theorem State.writeT_aReg (s : State) (i : TSel) (v : St) : (s.writeT i v).aReg = s.aReg := rfl
@[simp] theorem State.writeT_jReg (s : State) (i : TSel) (v : St) : (s.writeT i v).jReg = s.jReg := rfl
@[simp] theorem State.writeT_tReg (s : State) (i : TSel) (v : St) : (s.writeT i v).tReg = s.tReg.set i (stToReg v) := rfl
@[simp] theorem State.writeT_wBuf (s : State) (i : TSel) (v : St) : (s.writeT i v).wBuf = s.wBuf := rfl
@[simp] theorem State.writeT_tflag (s : State) (i : TSel) (v : St) : (s.writeT i v).tflag = s.tflag := rfl
@[simp] theorem State.writeT_retval (s : State) (i : TSel) (v : St) : (s.writeT i v).retval = s.retval := rfl
@[simp] theorem State.writeT_seed (s : State) (i : TSel) (v : St) : (s.writeT i v).seed = s.seed := rfl
@[simp] theorem State.writeT_fault (s : State) (i : TSel) (v : St) : (s.writeT i v).fault = s.fault := rfl
@[simp] theorem State.writeT_faultInfo (s : State) (i : TSel) (v : St) : (s.writeT i v).faultInfo = s.faultInfo := rfl
@[simp] theorem State.writeT_gctx (s : State) (i : TSel) (v : St) : (s.writeT i v).gctx = s.gctx := rfl
@[simp] theorem State.writeT_mctx (s : State) (i : TSel) (v : St) : (s.writeT i v).mctx = s.mctx := rfl
@[simp] theorem State.writeT_staticPrecomp (s : State) (i : TSel) (v : St) : (s.writeT i v).staticPrecomp = s.staticPrecomp := rfl
@[simp] theorem State.writeT_leak (s : State) (i : TSel) (v : St) : (s.writeT i v).leak = s.leak := rfl
@[simp] theorem State.writeT_host (s : State) (i : TSel) (v : St) : (s.writeT i v).host = s.host := rfl
@[simp] theorem State.writeT_response (s : State) (i : TSel) (v : St) : (s.writeT i v).response = s.response := rfl
@[simp] theorem State.writeT_freeCount (s : State) (i : TSel) (v : St) : (s.writeT i v).freeCount = s.freeCount := rfl

/-! ### `State.writeW` -/

@[simp] theorem State.writeW_sRaw (s : State) (i : WSel) (b : WBuf) : (s.writeW i b).sRaw = s.sRaw := rfl
@[simp] theorem State.writeW_fRaw (s : State) (i : WSel) (b : WBuf) : (s.writeW i b).fRaw = s.fRaw := rfl
@[simp] theorem State.writeW_aReg (s : State) (i : WSel) (b : WBuf) : (s.writeW i b).aReg = s.aReg := rfl
@[simp] theorem State.writeW_jReg (s : State) (i : WSel) (b : WBuf) : (s.writeW i b).jReg = s.jReg := rfl
@[simp] theorem State.writeW_tReg (s : State) (i : WSel) (b : WBuf) : (s.writeW i b).tReg = s.tReg := rfl
@[simp] theorem State.writeW_wBuf (s : State) (i : WSel) (b : WBuf) : (s.writeW i b).wBuf = s.wBuf.set i b := rfl
@[simp] theorem State.writeW_tflag (s : State) (i : WSel) (b : WBuf) : (s.writeW i b).tflag = s.tflag := rfl
@[simp] theorem State.writeW_retval (s : State) (i : WSel) (b : WBuf) : (s.writeW i b).retval = s.retval := rfl
@[simp] theorem State.writeW_seed (s : State) (i : WSel) (b : WBuf) : (s.writeW i b).seed = s.seed := rfl
@[simp] theorem State.writeW_fault (s : State) (i : WSel) (b : WBuf) : (s.writeW i b).fault = s.fault := rfl
@[simp] theorem State.writeW_faultInfo (s : State) (i : WSel) (b : WBuf) : (s.writeW i b).faultInfo = s.faultInfo := rfl
@[simp] theorem State.writeW_gctx (s : State) (i : WSel) (b : WBuf) : (s.writeW i b).gctx = s.gctx := rfl
@[simp] theorem State.writeW_mctx (s : State) (i : WSel) (b : WBuf) : (s.writeW i b).mctx = s.mctx := rfl
@[simp] theorem State.writeW_staticPrecomp (s : State) (i : WSel) (b : WBuf) : (s.writeW i b).staticPrecomp = s.staticPrecomp := rfl
@[simp] theorem State.writeW_leak (s : State) (i : WSel) (b : WBuf) : (s.writeW i b).leak = s.leak := rfl
@[simp] theorem State.writeW_host (s : State) (i : WSel) (b : WBuf) : (s.writeW i b).host = s.host := rfl
@[simp] theorem State.writeW_response (s : State) (i : WSel) (b : WBuf) : (s.writeW i b).response = s.response := rfl
@[simp] theorem State.writeW_freeCount (s : State) (i : WSel) (b : WBuf) : (s.writeW i b).freeCount = s.freeCount := rfl

/-! ### `State.writeT1` -/

@[simp] theorem State.writeT1_sRaw (s : State) (b : Bool) : (s.writeT1 b).sRaw = s.sRaw := rfl
@[simp] theorem State.writeT1_fRaw (s : State) (b : Bool) : (s.writeT1 b).fRaw = s.fRaw := rfl
@[simp] theorem State.writeT1_aReg (s : State) (b : Bool) : (s.writeT1 b).aReg = s.aReg := rfl
@[simp] theorem State.writeT1_jReg (s : State) (b : Bool) : (s.writeT1 b).jReg = s.jReg := rfl
@[simp] theorem State.writeT1_tReg (s : State) (b : Bool) : (s.writeT1 b).tReg = s.tReg := rfl
@[simp] theorem State.writeT1_wBuf (s : State) (b : Bool) : (s.writeT1 b).wBuf = s.wBuf := rfl
@[simp] theorem State.writeT1_tflag (s : State) (b : Bool) : (s.writeT1 b).tflag = b := rfl
@[simp] theorem State.writeT1_retval (s : State) (b : Bool) : (s.writeT1 b).retval = s.retval := rfl
@[simp] theorem State.writeT1_seed (s : State) (b : Bool) : (s.writeT1 b).seed = s.seed := rfl
@[simp] theorem State.writeT1_fault (s : State) (b : Bool) : (s.writeT1 b).fault = s.fault := rfl
@[simp] theorem State.writeT1_faultInfo (s : State) (b : Bool) : (s.writeT1 b).faultInfo = s.faultInfo := rfl
@[simp] theorem State.writeT1_gctx (s : State) (b : Bool) : (s.writeT1 b).gctx = s.gctx := rfl
@[simp] theorem State.writeT1_mctx (s : State) (b : Bool) : (s.writeT1 b).mctx = s.mctx := rfl
@[simp] theorem State.writeT1_staticPrecomp (s : State) (b : Bool) : (s.writeT1 b).staticPrecomp = s.staticPrecomp := rfl
@[simp] theorem State.writeT1_leak (s : State) (b : Bool) : (s.writeT1 b).leak = s.leak := rfl
@[simp] theorem State.writeT1_host (s : State) (b : Bool) : (s.writeT1 b).host = s.host := rfl
@[simp] theorem State.writeT1_response (s : State) (b : Bool) : (s.writeT1 b).response = s.response := rfl
@[simp] theorem State.writeT1_freeCount (s : State) (b : Bool) : (s.writeT1 b).freeCount = s.freeCount := rfl

/-! ### `State.writeRetval` -/

@[simp] theorem State.writeRetval_sRaw (s : State) (v : BitVec 9) : (s.writeRetval v).sRaw = s.sRaw := rfl
@[simp] theorem State.writeRetval_fRaw (s : State) (v : BitVec 9) : (s.writeRetval v).fRaw = s.fRaw := rfl
@[simp] theorem State.writeRetval_aReg (s : State) (v : BitVec 9) : (s.writeRetval v).aReg = s.aReg := rfl
@[simp] theorem State.writeRetval_jReg (s : State) (v : BitVec 9) : (s.writeRetval v).jReg = s.jReg := rfl
@[simp] theorem State.writeRetval_tReg (s : State) (v : BitVec 9) : (s.writeRetval v).tReg = s.tReg := rfl
@[simp] theorem State.writeRetval_wBuf (s : State) (v : BitVec 9) : (s.writeRetval v).wBuf = s.wBuf := rfl
@[simp] theorem State.writeRetval_tflag (s : State) (v : BitVec 9) : (s.writeRetval v).tflag = s.tflag := rfl
@[simp] theorem State.writeRetval_retval (s : State) (v : BitVec 9) : (s.writeRetval v).retval = v := rfl
@[simp] theorem State.writeRetval_seed (s : State) (v : BitVec 9) : (s.writeRetval v).seed = s.seed := rfl
@[simp] theorem State.writeRetval_fault (s : State) (v : BitVec 9) : (s.writeRetval v).fault = s.fault := rfl
@[simp] theorem State.writeRetval_faultInfo (s : State) (v : BitVec 9) : (s.writeRetval v).faultInfo = s.faultInfo := rfl
@[simp] theorem State.writeRetval_gctx (s : State) (v : BitVec 9) : (s.writeRetval v).gctx = s.gctx := rfl
@[simp] theorem State.writeRetval_mctx (s : State) (v : BitVec 9) : (s.writeRetval v).mctx = s.mctx := rfl
@[simp] theorem State.writeRetval_staticPrecomp (s : State) (v : BitVec 9) : (s.writeRetval v).staticPrecomp = s.staticPrecomp := rfl
@[simp] theorem State.writeRetval_leak (s : State) (v : BitVec 9) : (s.writeRetval v).leak = s.leak := rfl
@[simp] theorem State.writeRetval_host (s : State) (v : BitVec 9) : (s.writeRetval v).host = s.host := rfl
@[simp] theorem State.writeRetval_response (s : State) (v : BitVec 9) : (s.writeRetval v).response = s.response := rfl
@[simp] theorem State.writeRetval_freeCount (s : State) (v : BitVec 9) : (s.writeRetval v).freeCount = s.freeCount := rfl

/-! ### `State.writeSeed` -/

@[simp] theorem State.writeSeed_sRaw (s : State) (v : U256) : (s.writeSeed v).sRaw = s.sRaw := rfl
@[simp] theorem State.writeSeed_fRaw (s : State) (v : U256) : (s.writeSeed v).fRaw = s.fRaw := rfl
@[simp] theorem State.writeSeed_aReg (s : State) (v : U256) : (s.writeSeed v).aReg = s.aReg := rfl
@[simp] theorem State.writeSeed_jReg (s : State) (v : U256) : (s.writeSeed v).jReg = s.jReg := rfl
@[simp] theorem State.writeSeed_tReg (s : State) (v : U256) : (s.writeSeed v).tReg = s.tReg := rfl
@[simp] theorem State.writeSeed_wBuf (s : State) (v : U256) : (s.writeSeed v).wBuf = s.wBuf := rfl
@[simp] theorem State.writeSeed_tflag (s : State) (v : U256) : (s.writeSeed v).tflag = s.tflag := rfl
@[simp] theorem State.writeSeed_retval (s : State) (v : U256) : (s.writeSeed v).retval = s.retval := rfl
@[simp] theorem State.writeSeed_seed (s : State) (v : U256) : (s.writeSeed v).seed = v := rfl
@[simp] theorem State.writeSeed_fault (s : State) (v : U256) : (s.writeSeed v).fault = s.fault := rfl
@[simp] theorem State.writeSeed_faultInfo (s : State) (v : U256) : (s.writeSeed v).faultInfo = s.faultInfo := rfl
@[simp] theorem State.writeSeed_gctx (s : State) (v : U256) : (s.writeSeed v).gctx = s.gctx := rfl
@[simp] theorem State.writeSeed_mctx (s : State) (v : U256) : (s.writeSeed v).mctx = s.mctx := rfl
@[simp] theorem State.writeSeed_staticPrecomp (s : State) (v : U256) : (s.writeSeed v).staticPrecomp = s.staticPrecomp := rfl
@[simp] theorem State.writeSeed_leak (s : State) (v : U256) : (s.writeSeed v).leak = s.leak := rfl
@[simp] theorem State.writeSeed_host (s : State) (v : U256) : (s.writeSeed v).host = s.host := rfl
@[simp] theorem State.writeSeed_response (s : State) (v : U256) : (s.writeSeed v).response = s.response := rfl
@[simp] theorem State.writeSeed_freeCount (s : State) (v : U256) : (s.writeSeed v).freeCount = s.freeCount := rfl

/-! ### `State.writeG` -/

@[simp] theorem State.writeG_sRaw (s : State) (c : GSlot) (x : GenCtx) : (s.writeG c x).sRaw = s.sRaw := rfl
@[simp] theorem State.writeG_fRaw (s : State) (c : GSlot) (x : GenCtx) : (s.writeG c x).fRaw = s.fRaw := rfl
@[simp] theorem State.writeG_aReg (s : State) (c : GSlot) (x : GenCtx) : (s.writeG c x).aReg = s.aReg := rfl
@[simp] theorem State.writeG_jReg (s : State) (c : GSlot) (x : GenCtx) : (s.writeG c x).jReg = s.jReg := rfl
@[simp] theorem State.writeG_tReg (s : State) (c : GSlot) (x : GenCtx) : (s.writeG c x).tReg = s.tReg := rfl
@[simp] theorem State.writeG_wBuf (s : State) (c : GSlot) (x : GenCtx) : (s.writeG c x).wBuf = s.wBuf := rfl
@[simp] theorem State.writeG_tflag (s : State) (c : GSlot) (x : GenCtx) : (s.writeG c x).tflag = s.tflag := rfl
@[simp] theorem State.writeG_retval (s : State) (c : GSlot) (x : GenCtx) : (s.writeG c x).retval = s.retval := rfl
@[simp] theorem State.writeG_seed (s : State) (c : GSlot) (x : GenCtx) : (s.writeG c x).seed = s.seed := rfl
@[simp] theorem State.writeG_fault (s : State) (c : GSlot) (x : GenCtx) : (s.writeG c x).fault = s.fault := rfl
@[simp] theorem State.writeG_faultInfo (s : State) (c : GSlot) (x : GenCtx) : (s.writeG c x).faultInfo = s.faultInfo := rfl
@[simp] theorem State.writeG_gctx (s : State) (c : GSlot) (x : GenCtx) : (s.writeG c x).gctx = s.gctx.set c x := rfl
@[simp] theorem State.writeG_mctx (s : State) (c : GSlot) (x : GenCtx) : (s.writeG c x).mctx = s.mctx := rfl
@[simp] theorem State.writeG_staticPrecomp (s : State) (c : GSlot) (x : GenCtx) : (s.writeG c x).staticPrecomp = s.staticPrecomp := rfl
@[simp] theorem State.writeG_leak (s : State) (c : GSlot) (x : GenCtx) : (s.writeG c x).leak = s.leak := rfl
@[simp] theorem State.writeG_host (s : State) (c : GSlot) (x : GenCtx) : (s.writeG c x).host = s.host := rfl
@[simp] theorem State.writeG_response (s : State) (c : GSlot) (x : GenCtx) : (s.writeG c x).response = s.response := rfl
@[simp] theorem State.writeG_freeCount (s : State) (c : GSlot) (x : GenCtx) : (s.writeG c x).freeCount = s.freeCount := rfl

/-! ### `State.writeM` -/

@[simp] theorem State.writeM_sRaw (s : State) (c : MSlot) (x : MulCtx) : (s.writeM c x).sRaw = s.sRaw := rfl
@[simp] theorem State.writeM_fRaw (s : State) (c : MSlot) (x : MulCtx) : (s.writeM c x).fRaw = s.fRaw := rfl
@[simp] theorem State.writeM_aReg (s : State) (c : MSlot) (x : MulCtx) : (s.writeM c x).aReg = s.aReg := rfl
@[simp] theorem State.writeM_jReg (s : State) (c : MSlot) (x : MulCtx) : (s.writeM c x).jReg = s.jReg := rfl
@[simp] theorem State.writeM_tReg (s : State) (c : MSlot) (x : MulCtx) : (s.writeM c x).tReg = s.tReg := rfl
@[simp] theorem State.writeM_wBuf (s : State) (c : MSlot) (x : MulCtx) : (s.writeM c x).wBuf = s.wBuf := rfl
@[simp] theorem State.writeM_tflag (s : State) (c : MSlot) (x : MulCtx) : (s.writeM c x).tflag = s.tflag := rfl
@[simp] theorem State.writeM_retval (s : State) (c : MSlot) (x : MulCtx) : (s.writeM c x).retval = s.retval := rfl
@[simp] theorem State.writeM_seed (s : State) (c : MSlot) (x : MulCtx) : (s.writeM c x).seed = s.seed := rfl
@[simp] theorem State.writeM_fault (s : State) (c : MSlot) (x : MulCtx) : (s.writeM c x).fault = s.fault := rfl
@[simp] theorem State.writeM_faultInfo (s : State) (c : MSlot) (x : MulCtx) : (s.writeM c x).faultInfo = s.faultInfo := rfl
@[simp] theorem State.writeM_gctx (s : State) (c : MSlot) (x : MulCtx) : (s.writeM c x).gctx = s.gctx := rfl
@[simp] theorem State.writeM_mctx (s : State) (c : MSlot) (x : MulCtx) : (s.writeM c x).mctx = s.mctx.set c x := rfl
@[simp] theorem State.writeM_staticPrecomp (s : State) (c : MSlot) (x : MulCtx) : (s.writeM c x).staticPrecomp = s.staticPrecomp := rfl
@[simp] theorem State.writeM_leak (s : State) (c : MSlot) (x : MulCtx) : (s.writeM c x).leak = s.leak := rfl
@[simp] theorem State.writeM_host (s : State) (c : MSlot) (x : MulCtx) : (s.writeM c x).host = s.host := rfl
@[simp] theorem State.writeM_response (s : State) (c : MSlot) (x : MulCtx) : (s.writeM c x).response = s.response := rfl
@[simp] theorem State.writeM_freeCount (s : State) (c : MSlot) (x : MulCtx) : (s.writeM c x).freeCount = s.freeCount := rfl

/-! ### `State.takeFault` -/

@[simp] theorem State.takeFault_sRaw (s : State) (f : Fault) (op : Byte) : (s.takeFault f op).sRaw = s.sRaw := rfl
@[simp] theorem State.takeFault_fRaw (s : State) (f : Fault) (op : Byte) : (s.takeFault f op).fRaw = s.fRaw := rfl
@[simp] theorem State.takeFault_aReg (s : State) (f : Fault) (op : Byte) : (s.takeFault f op).aReg = s.aReg := rfl
@[simp] theorem State.takeFault_jReg (s : State) (f : Fault) (op : Byte) : (s.takeFault f op).jReg = s.jReg := rfl
@[simp] theorem State.takeFault_tReg (s : State) (f : Fault) (op : Byte) : (s.takeFault f op).tReg = s.tReg := rfl
@[simp] theorem State.takeFault_wBuf (s : State) (f : Fault) (op : Byte) : (s.takeFault f op).wBuf = s.wBuf := rfl
@[simp] theorem State.takeFault_tflag (s : State) (f : Fault) (op : Byte) : (s.takeFault f op).tflag = s.tflag := rfl
@[simp] theorem State.takeFault_retval (s : State) (f : Fault) (op : Byte) : (s.takeFault f op).retval = s.retval := rfl
@[simp] theorem State.takeFault_seed (s : State) (f : Fault) (op : Byte) : (s.takeFault f op).seed = s.seed := rfl
@[simp] theorem State.takeFault_fault (s : State) (f : Fault) (op : Byte) : (s.takeFault f op).fault = true := rfl
@[simp] theorem State.takeFault_faultInfo (s : State) (f : Fault) (op : Byte) : (s.takeFault f op).faultInfo = ⟨f.code, op⟩ := rfl
@[simp] theorem State.takeFault_gctx (s : State) (f : Fault) (op : Byte) : (s.takeFault f op).gctx = s.gctx := rfl
@[simp] theorem State.takeFault_mctx (s : State) (f : Fault) (op : Byte) : (s.takeFault f op).mctx = s.mctx := rfl
@[simp] theorem State.takeFault_staticPrecomp (s : State) (f : Fault) (op : Byte) : (s.takeFault f op).staticPrecomp = s.staticPrecomp := rfl
@[simp] theorem State.takeFault_leak (s : State) (f : Fault) (op : Byte) : (s.takeFault f op).leak = s.leak := rfl
@[simp] theorem State.takeFault_host (s : State) (f : Fault) (op : Byte) : (s.takeFault f op).host = s.host := rfl
@[simp] theorem State.takeFault_response (s : State) (f : Fault) (op : Byte) : (s.takeFault f op).response = s.response := rfl
@[simp] theorem State.takeFault_freeCount (s : State) (f : Fault) (op : Byte) : (s.takeFault f op).freeCount = s.freeCount := rfl

/-! ### `State.respond` -/

@[simp] theorem State.respond_sRaw (s : State) (r : Response) : (s.respond r).sRaw = s.sRaw := rfl
@[simp] theorem State.respond_fRaw (s : State) (r : Response) : (s.respond r).fRaw = s.fRaw := rfl
@[simp] theorem State.respond_aReg (s : State) (r : Response) : (s.respond r).aReg = s.aReg := rfl
@[simp] theorem State.respond_jReg (s : State) (r : Response) : (s.respond r).jReg = s.jReg := rfl
@[simp] theorem State.respond_tReg (s : State) (r : Response) : (s.respond r).tReg = s.tReg := rfl
@[simp] theorem State.respond_wBuf (s : State) (r : Response) : (s.respond r).wBuf = s.wBuf := rfl
@[simp] theorem State.respond_tflag (s : State) (r : Response) : (s.respond r).tflag = s.tflag := rfl
@[simp] theorem State.respond_retval (s : State) (r : Response) : (s.respond r).retval = s.retval := rfl
@[simp] theorem State.respond_seed (s : State) (r : Response) : (s.respond r).seed = s.seed := rfl
@[simp] theorem State.respond_fault (s : State) (r : Response) : (s.respond r).fault = s.fault := rfl
@[simp] theorem State.respond_faultInfo (s : State) (r : Response) : (s.respond r).faultInfo = s.faultInfo := rfl
@[simp] theorem State.respond_gctx (s : State) (r : Response) : (s.respond r).gctx = s.gctx := rfl
@[simp] theorem State.respond_mctx (s : State) (r : Response) : (s.respond r).mctx = s.mctx := rfl
@[simp] theorem State.respond_staticPrecomp (s : State) (r : Response) : (s.respond r).staticPrecomp = s.staticPrecomp := rfl
@[simp] theorem State.respond_leak (s : State) (r : Response) : (s.respond r).leak = s.leak := rfl
@[simp] theorem State.respond_host (s : State) (r : Response) : (s.respond r).host = s.host := rfl
@[simp] theorem State.respond_response (s : State) (r : Response) : (s.respond r).response = r := rfl
@[simp] theorem State.respond_freeCount (s : State) (r : Response) : (s.respond r).freeCount = s.freeCount := rfl

/-! ### `State.takeIllegal` -/

@[simp] theorem State.takeIllegal_sRaw (s : State) (w : Word) : (s.takeIllegal w).sRaw = s.sRaw := rfl
@[simp] theorem State.takeIllegal_fRaw (s : State) (w : Word) : (s.takeIllegal w).fRaw = s.fRaw := rfl
@[simp] theorem State.takeIllegal_aReg (s : State) (w : Word) : (s.takeIllegal w).aReg = s.aReg := rfl
@[simp] theorem State.takeIllegal_jReg (s : State) (w : Word) : (s.takeIllegal w).jReg = s.jReg := rfl
@[simp] theorem State.takeIllegal_tReg (s : State) (w : Word) : (s.takeIllegal w).tReg = s.tReg := rfl
@[simp] theorem State.takeIllegal_wBuf (s : State) (w : Word) : (s.takeIllegal w).wBuf = s.wBuf := rfl
@[simp] theorem State.takeIllegal_tflag (s : State) (w : Word) : (s.takeIllegal w).tflag = s.tflag := rfl
@[simp] theorem State.takeIllegal_retval (s : State) (w : Word) : (s.takeIllegal w).retval = s.retval := rfl
@[simp] theorem State.takeIllegal_seed (s : State) (w : Word) : (s.takeIllegal w).seed = s.seed := rfl
@[simp] theorem State.takeIllegal_fault (s : State) (w : Word) : (s.takeIllegal w).fault = true := rfl
@[simp] theorem State.takeIllegal_faultInfo (s : State) (w : Word) : (s.takeIllegal w).faultInfo = ⟨0x01, w.extractLsb' 0 8⟩ := rfl
@[simp] theorem State.takeIllegal_gctx (s : State) (w : Word) : (s.takeIllegal w).gctx = s.gctx := rfl
@[simp] theorem State.takeIllegal_mctx (s : State) (w : Word) : (s.takeIllegal w).mctx = s.mctx := rfl
@[simp] theorem State.takeIllegal_staticPrecomp (s : State) (w : Word) : (s.takeIllegal w).staticPrecomp = s.staticPrecomp := rfl
@[simp] theorem State.takeIllegal_leak (s : State) (w : Word) : (s.takeIllegal w).leak = some ⟨w, some .illegal, Trace.none, .none⟩ := rfl
@[simp] theorem State.takeIllegal_host (s : State) (w : Word) : (s.takeIllegal w).host = s.host := rfl
@[simp] theorem State.takeIllegal_response (s : State) (w : Word) : (s.takeIllegal w).response = s.response := rfl
@[simp] theorem State.takeIllegal_freeCount (s : State) (w : Word) : (s.takeIllegal w).freeCount = s.freeCount := rfl

/-! ### `State.resetBlock` -/

@[simp] theorem State.resetBlock_sRaw (s : State) : s.resetBlock.sRaw = (State.resetOf s.staticPrecomp).sRaw := rfl
@[simp] theorem State.resetBlock_fRaw (s : State) : s.resetBlock.fRaw = (State.resetOf s.staticPrecomp).fRaw := rfl
@[simp] theorem State.resetBlock_aReg (s : State) : s.resetBlock.aReg = (State.resetOf s.staticPrecomp).aReg := rfl
@[simp] theorem State.resetBlock_jReg (s : State) : s.resetBlock.jReg = (State.resetOf s.staticPrecomp).jReg := rfl
@[simp] theorem State.resetBlock_tReg (s : State) : s.resetBlock.tReg = (State.resetOf s.staticPrecomp).tReg := rfl
@[simp] theorem State.resetBlock_wBuf (s : State) : s.resetBlock.wBuf = (State.resetOf s.staticPrecomp).wBuf := rfl
@[simp] theorem State.resetBlock_tflag (s : State) : s.resetBlock.tflag = (State.resetOf s.staticPrecomp).tflag := rfl
@[simp] theorem State.resetBlock_retval (s : State) : s.resetBlock.retval = (State.resetOf s.staticPrecomp).retval := rfl
@[simp] theorem State.resetBlock_seed (s : State) : s.resetBlock.seed = (State.resetOf s.staticPrecomp).seed := rfl
@[simp] theorem State.resetBlock_fault (s : State) : s.resetBlock.fault = (State.resetOf s.staticPrecomp).fault := rfl
@[simp] theorem State.resetBlock_faultInfo (s : State) : s.resetBlock.faultInfo = (State.resetOf s.staticPrecomp).faultInfo := rfl
@[simp] theorem State.resetBlock_gctx (s : State) : s.resetBlock.gctx = (State.resetOf s.staticPrecomp).gctx := rfl
@[simp] theorem State.resetBlock_mctx (s : State) : s.resetBlock.mctx = (State.resetOf s.staticPrecomp).mctx := rfl
@[simp] theorem State.resetBlock_staticPrecomp (s : State) : s.resetBlock.staticPrecomp = s.staticPrecomp := rfl
@[simp] theorem State.resetBlock_leak (s : State) : s.resetBlock.leak = s.leak := rfl
@[simp] theorem State.resetBlock_host (s : State) : s.resetBlock.host = s.host := rfl
@[simp] theorem State.resetBlock_response (s : State) : s.resetBlock.response = s.response := rfl
@[simp] theorem State.resetBlock_freeCount (s : State) : s.resetBlock.freeCount = s.freeCount := rfl

/-! ### `State.recordLeak`: it writes `leak` and `freeCount` and nothing else -/

@[simp] theorem State.recordLeak_sRaw (s : State) (i : Instr) (f : Option Fault) (tr : Trace) :
    (s.recordLeak i f tr).sRaw = s.sRaw := by
  unfold State.recordLeak; split <;> rfl
@[simp] theorem State.recordLeak_fRaw (s : State) (i : Instr) (f : Option Fault) (tr : Trace) :
    (s.recordLeak i f tr).fRaw = s.fRaw := by
  unfold State.recordLeak; split <;> rfl
@[simp] theorem State.recordLeak_aReg (s : State) (i : Instr) (f : Option Fault) (tr : Trace) :
    (s.recordLeak i f tr).aReg = s.aReg := by
  unfold State.recordLeak; split <;> rfl
@[simp] theorem State.recordLeak_jReg (s : State) (i : Instr) (f : Option Fault) (tr : Trace) :
    (s.recordLeak i f tr).jReg = s.jReg := by
  unfold State.recordLeak; split <;> rfl
@[simp] theorem State.recordLeak_tReg (s : State) (i : Instr) (f : Option Fault) (tr : Trace) :
    (s.recordLeak i f tr).tReg = s.tReg := by
  unfold State.recordLeak; split <;> rfl
@[simp] theorem State.recordLeak_wBuf (s : State) (i : Instr) (f : Option Fault) (tr : Trace) :
    (s.recordLeak i f tr).wBuf = s.wBuf := by
  unfold State.recordLeak; split <;> rfl
@[simp] theorem State.recordLeak_tflag (s : State) (i : Instr) (f : Option Fault) (tr : Trace) :
    (s.recordLeak i f tr).tflag = s.tflag := by
  unfold State.recordLeak; split <;> rfl
@[simp] theorem State.recordLeak_retval (s : State) (i : Instr) (f : Option Fault) (tr : Trace) :
    (s.recordLeak i f tr).retval = s.retval := by
  unfold State.recordLeak; split <;> rfl
@[simp] theorem State.recordLeak_seed (s : State) (i : Instr) (f : Option Fault) (tr : Trace) :
    (s.recordLeak i f tr).seed = s.seed := by
  unfold State.recordLeak; split <;> rfl
@[simp] theorem State.recordLeak_fault (s : State) (i : Instr) (f : Option Fault) (tr : Trace) :
    (s.recordLeak i f tr).fault = s.fault := by
  unfold State.recordLeak; split <;> rfl
@[simp] theorem State.recordLeak_faultInfo (s : State) (i : Instr) (f : Option Fault) (tr : Trace) :
    (s.recordLeak i f tr).faultInfo = s.faultInfo := by
  unfold State.recordLeak; split <;> rfl
@[simp] theorem State.recordLeak_gctx (s : State) (i : Instr) (f : Option Fault) (tr : Trace) :
    (s.recordLeak i f tr).gctx = s.gctx := by
  unfold State.recordLeak; split <;> rfl
@[simp] theorem State.recordLeak_mctx (s : State) (i : Instr) (f : Option Fault) (tr : Trace) :
    (s.recordLeak i f tr).mctx = s.mctx := by
  unfold State.recordLeak; split <;> rfl
@[simp] theorem State.recordLeak_staticPrecomp (s : State) (i : Instr) (f : Option Fault) (tr : Trace) :
    (s.recordLeak i f tr).staticPrecomp = s.staticPrecomp := by
  unfold State.recordLeak; split <;> rfl
@[simp] theorem State.recordLeak_host (s : State) (i : Instr) (f : Option Fault) (tr : Trace) :
    (s.recordLeak i f tr).host = s.host := by
  unfold State.recordLeak; split <;> rfl
@[simp] theorem State.recordLeak_response (s : State) (i : Instr) (f : Option Fault) (tr : Trace) :
    (s.recordLeak i f tr).response = s.response := by
  unfold State.recordLeak; split <;> rfl

/-- The leak a command records: its word, its fault, its draws and indices, and a free value for a VT command. -/
theorem State.recordLeak_leak (s : State) (i : Instr) (f : Option Fault) (tr : Trace) :
    (s.recordLeak i f tr).leak =
      some ⟨encode i, f, tr, if leaksFreely i then some (Config.freeLeak s.freeCount) else .none⟩ := by
  unfold State.recordLeak; split <;> rfl

/-- Each VT command takes a fresh free value. -/
theorem State.recordLeak_freeCount (s : State) (i : Instr) (f : Option Fault) (tr : Trace) :
    (s.recordLeak i f tr).freeCount = if leaksFreely i then s.freeCount + 1 else s.freeCount := by
  unfold State.recordLeak; split <;> rfl

end Sys2Proof.Machine
end

