-- ==== Sys2Proof/Laws/Ops.lean ====
section
/-! SUPPORT. What each shared operation of the machine can do, said once: operands and results, the table primitives, the
fault entry, the end of a command, the sampling loops and the batch write. -/

namespace Sys2Proof.Machine

/-! ### Operands and results (10_state.md R33 to R39) -/

theorem scToRaw_toNat (a : Sc) : (scToRaw a).toNat = a.val := by
  rw [scToRaw, BitVec.toNat_ofNat, Nat.mod_eq_of_lt a.lt_two_pow]

theorem feToRaw_toNat (a : Fe) : (feToRaw a).toNat = a.val := by
  rw [feToRaw, BitVec.toNat_ofNat, Nat.mod_eq_of_lt a.lt_two_pow]

@[simp] theorem scOfRaw_scToRaw (a : Sc) : scOfRaw (scToRaw a) = a := by
  rw [scOfRaw, scToRaw_toNat, scOfNat_self]

@[simp] theorem feOfRaw_feToRaw (a : Fe) : feOfRaw (feToRaw a) = a := by
  rw [feOfRaw, feToRaw_toNat, feOfNat_self]

/-- An affine result reads back as itself, the identity as `AINF`. -/
@[simp] theorem geOfReg_geToReg (a : Ge) : geOfReg (geToReg a) = if a.inf then AINF else a := by
  cases h : a.inf
  · simp only [geToReg, h, geOfReg, feOfRaw_feToRaw, Bool.false_eq_true, if_false]
    cases a; simp_all
  · simp [geToReg, h, geOfReg]

/-- A Jacobian result reads back as itself, the identity as `JINF`. -/
@[simp] theorem gejOfReg_gejToReg (a : Gej) : gejOfReg (gejToReg a) = if a.inf then JINF else a := by
  cases h : a.inf
  · simp only [gejToReg, h, gejOfReg, feOfRaw_feToRaw, Bool.false_eq_true, if_false]
    cases a; simp_all
  · simp [gejToReg, h, gejOfReg]

@[simp] theorem stOfReg_stToReg (a : St) : stOfReg (stToReg a) = a := by
  simp [stOfReg, stToReg]

/-- A coordinate written is canonical. -/
theorem feToRaw_lt (a : Fe) : (feToRaw a).toNat < Config.p := by
  rw [feToRaw_toNat]; exact a.isLt

/-- A scalar written is canonical. -/
theorem scToRaw_lt (a : Sc) : (scToRaw a).toNat < Config.n := by
  rw [scToRaw_toNat]; exact a.isLt

@[simp] theorem State.readS_writeS (s : State) (i : SSel) (v : Sc) : (s.writeS i v).readS i = v := by
  simp [State.readS]
@[simp] theorem State.readF_writeF (s : State) (i : FSel) (v : Fe) : (s.writeF i v).readF i = v := by
  simp [State.readF]
@[simp] theorem State.readA_writeA (s : State) (i : ASel) (v : Ge) :
    (s.writeA i v).readA i = if v.inf then AINF else v := by
  simp [State.readA]
@[simp] theorem State.readJ_writeJ (s : State) (i : JSel) (v : Gej) :
    (s.writeJ i v).readJ i = if v.inf then JINF else v := by
  simp [State.readJ]
@[simp] theorem State.readT_writeT (s : State) (i : TSel) (v : St) : (s.writeT i v).readT i = v := by
  simp [State.readT]

theorem State.readS_writeS_ne (s : State) (i k : SSel) (v : Sc) (h : i ≠ k) : (s.writeS i v).readS k = s.readS k := by
  have : i.val ≠ k.val := fun e => h (Fin.ext e)
  simp [State.readS, Vector.getElem_set_ne _ _ this]
theorem State.readF_writeF_ne (s : State) (i k : FSel) (v : Fe) (h : i ≠ k) : (s.writeF i v).readF k = s.readF k := by
  have : i.val ≠ k.val := fun e => h (Fin.ext e)
  simp [State.readF, Vector.getElem_set_ne _ _ this]
theorem State.readA_writeA_ne (s : State) (i k : ASel) (v : Ge) (h : i ≠ k) : (s.writeA i v).readA k = s.readA k := by
  have : i.val ≠ k.val := fun e => h (Fin.ext e)
  simp [State.readA, Vector.getElem_set_ne _ _ this]
theorem State.readJ_writeJ_ne (s : State) (i k : JSel) (v : Gej) (h : i ≠ k) :
    (s.writeJ i v).readJ k = s.readJ k := by
  have : i.val ≠ k.val := fun e => h (Fin.ext e)
  simp [State.readJ, Vector.getElem_set_ne _ _ this]
theorem State.readT_writeT_ne (s : State) (i k : TSel) (v : St) (h : i ≠ k) : (s.writeT i v).readT k = s.readT k := by
  have : i.val ≠ k.val := fun e => h (Fin.ext e)
  simp [State.readT, Vector.getElem_set_ne _ _ this]

/-! ### Table primitives (20_memory.md R86 to R89) -/

theorem GenCtx.table_ok_iff (c : GenCtx) (t : GenTable) : c.table = .ok t ↔ c.prec = some t := by
  unfold GenCtx.table; split <;> simp_all

theorem GenCtx.table_error_iff (c : GenCtx) (f : Fault) : c.table = .error f ↔ c.prec = none ∧ f = .notBuilt := by
  unfold GenCtx.table; split <;> simp_all [eq_comm]

theorem MulCtx.table_ok_iff (c : MulCtx) (t : MulTable) : c.table = .ok t ↔ c.preG = some t := by
  unfold MulCtx.table; split <;> simp_all

theorem MulCtx.table_error_iff (c : MulCtx) (f : Fault) : c.table = .error f ↔ c.preG = none ∧ f = .notBuilt := by
  unfold MulCtx.table; split <;> simp_all [eq_comm]

/-- A lookup reads every entry of its list, in order, whatever the digit (20_memory.md R88). -/
theorem genSelOver_reads (t : GenTable) (j : Fin 64) (d : Fin 16) (is : List (Fin 16)) (sel : St) :
    (genSelOver t j d is sel).2 = is.map fun i => .gen j i := by
  induction is generalizing sel with
  | nil => rfl
  | cons i rest ih => simp [genSelOver, ih]

/-- The entries after the wanted one do not replace it. -/
theorem genSelOver_keeps (t : GenTable) (j : Fin 64) (d : Fin 16) (is : List (Fin 16)) (sel : St) (h : d ∉ is) :
    (genSelOver t j d is sel).1 = sel := by
  induction is generalizing sel with
  | nil => rfl
  | cons i rest ih =>
    have hne : (i == d) = false := beq_false_of_ne fun e => h (e ▸ List.mem_cons_self)
    simp only [genSelOver, hne, stCmov, Bool.false_eq_true, if_false]
    exact ih _ fun hm => h (List.mem_cons_of_mem _ hm)

theorem genSelOver_finds (t : GenTable) (j : Fin 64) (d : Fin 16) (is : List (Fin 16)) (sel : St) (h : d ∈ is)
    (hnd : is.Nodup) : (genSelOver t j d is sel).1 = t.read j d := by
  induction is generalizing sel with
  | nil => simp at h
  | cons i rest ih =>
    rw [List.nodup_cons] at hnd
    by_cases hid : i = d
    · subst hid
      simp only [genSelOver, beq_self_eq_true, stCmov, if_true]
      exact genSelOver_keeps _ _ _ _ _ hnd.1
    · have hmem : d ∈ rest := (List.mem_cons.1 h).resolve_left fun e => hid e.symm
      exact ih _ hmem hnd.2

/-- The conditional-move accessor returns what direct indexing returns, and reads all 16 entries in order
(44_generator.md R264, 20_memory.md R88). -/
theorem genSelect_eq (t : GenTable) (j : Fin 64) (d : Fin 16) :
    genSelect t j d = (t.read j d, (List.finRange 16).map fun i => .gen j i) :=
  Prod.ext (genSelOver_finds _ _ _ _ _ (List.mem_finRange d) (List.nodup_finRange 16)) (genSelOver_reads ..)

/-- The signed odd accessor finds the entry `i` with `2·i + 1 = |d|`, in range; every other `d` raises F_INDEX
(20_memory.md R89). -/
theorem oddIndex_ok_iff (len : Nat) (d : Int) (i : Fin len) : oddIndex len d = .ok i ↔ 2 * i.val + 1 = d.natAbs := by
  have hi := i.isLt
  unfold oddIndex
  split
  · simp only [reduceCtorEq, false_iff]
    omega
  · split
    · simp only [Except.ok.injEq, Fin.ext_iff]
      omega
    · simp only [reduceCtorEq, false_iff]
      omega

theorem oddIndex_error (len : Nat) (d : Int) (f : Fault) (h : oddIndex len d = .error f) : f = .index := by
  unfold oddIndex at h
  split at h
  · simpa using h.symm
  · split at h <;> simp at h
    exact h.symm

/-- The sign part of the accessor is negation for a negative digit (20_memory.md R89). -/
theorem oddSigned_eq (d : Int) (g : Ge) (hd : d ≠ 0) (hg : g.inf = true → g = AINF) :
    oddSigned d g = if d < 0 then geNeg g else g := by
  unfold oddSigned geNeg
  cases h : g.inf
  · by_cases hneg : d < 0
    · simp [hneg, not_lt.2 hneg.le]
    · simp [hneg, show 0 < d by omega]
  · simp [hg h]

/-! ### Conversion (40_group_convert.md R160) -/

theorem geOfGej_ok_iff (a : Gej) (g : Ge) : geOfGej a = .ok g ↔ needsZeroInverse a = false ∧ g = affineOf a := by
  unfold geOfGej
  cases h : needsZeroInverse a <;> simp [eq_comm]

theorem geOfGej_error_iff (a : Gej) (f : Fault) : geOfGej a = .error f ↔ needsZeroInverse a = true ∧ f = .zero := by
  unfold geOfGej
  cases h : needsZeroInverse a <;> simp [eq_comm]

theorem needsZeroInverse_iff (a : Gej) : needsZeroInverse a = true ↔ a.inf = false ∧ a.z.val = 0 := by
  simp [needsZeroInverse]

/-- The affine form of a finite value has `x·z² = X` and `y·z³ = Y` (00_scope.md R15). -/
theorem affineOf_finite (a : Gej) (hinf : a.inf = false) (hz : a.z.val ≠ 0) :
    (affineOf a).inf = false ∧ fmul (affineOf a).x (fsqr a.z) = a.x ∧
      fmul (affineOf a).y (fmul (fsqr a.z) a.z) = a.y := by
  have hone : (a.z.val : ZMod Config.p) * (finv a.z).val = 1 := by
    rw [← fmul_cast, fmul_finv a.z hz, feOfNat_cast, Nat.cast_one]
  refine ⟨by simp [affineOf, geOfGejZinv, hinf], Fe.ext_cast ?_, Fe.ext_cast ?_⟩
  · simp only [affineOf, geOfGejZinv, hinf, Bool.false_eq_true, if_false, fmul_cast, fsqr_cast]
    linear_combination (a.x.val : ZMod Config.p) * (a.z.val * (finv a.z).val + 1) * hone
  · simp only [affineOf, geOfGejZinv, hinf, Bool.false_eq_true, if_false, fmul_cast, fsqr_cast]
    linear_combination (a.y.val : ZMod Config.p) *
      ((a.z.val * (finv a.z).val) ^ 2 + a.z.val * (finv a.z).val + 1) * hone

/-! ### The end of a command (00_scope.md R16, R17; 60_exceptions.md R340) -/

/-- A command always answers a next state: its results, or the fault entry, with its leak. -/
theorem finish_next_iff (i : Instr) (s t : State) (tr : Trace) (r : Except Fault State) :
    finish i s tr r = .next t ↔
      (∃ u, r = .ok u ∧ t = u.recordLeak i none tr) ∨
      ∃ f, r = .error f ∧ t = (s.takeFault f i.opcode).recordLeak i (some f) tr := by
  cases r <;> simp [finish, afterCommand, eq_comm]

theorem finish_ok (i : Instr) (s u : State) (tr : Trace) : finish i s tr (.ok u) = .next (u.recordLeak i none tr) :=
  rfl

theorem finish_error (i : Instr) (s : State) (tr : Trace) (f : Fault) :
    finish i s tr (.error f) = .next ((s.takeFault f i.opcode).recordLeak i (some f) tr) := rfl

/-- The eight fault codes are `0x01` to `0x08` (60_exceptions.md R331). -/
theorem Fault.code_range (f : Fault) : 1 ≤ f.code.toNat ∧ f.code.toNat ≤ 8 := by cases f <;> decide

theorem Fault.code_injective : Function.Injective Fault.code := by
  intro f g
  cases f <;> cases g <;> decide

/-- `convertTo` either writes the affine form or raises F_ZERO. -/
theorem convertTo_eq (s : State) (rd : ASel) (ra : JSel) :
    convertTo s rd ra =
      if needsZeroInverse (s.readJ ra) then .error .zero else .ok (s.writeA rd (affineOf (s.readJ ra))) := by
  unfold convertTo geOfGej
  cases needsZeroInverse (s.readJ ra) <;> rfl

/-- `invertTo` either writes the inverse or raises F_ZERO. -/
theorem invertTo_eq (s : State) (rd ra : SSel) :
    invertTo s rd ra = if (s.readS ra).val = 0 then .error .zero else .ok (s.writeS rd (sinv (s.readS ra))) := rfl

/-! ### The batch write (40_group_convert.md R155) -/

/-- A batch write changes nothing but affine registers. -/
theorem writeBatch_frame (gs : List Ge) (s : State) (first : Nat) :
    writeBatch s first gs = { s with aReg := (writeBatch s first gs).aReg } := by
  induction gs generalizing s first with
  | nil => rfl
  | cons g rest ih => exact ih (s.writeA (Fin.ofNat 8 first) g) (first + 1)

/-- A batch write puts the `k`-th value in register `first + k` and leaves the other registers. -/
theorem writeBatch_aReg (gs : List Ge) (s : State) (first : Nat) (h : first + gs.length ≤ 8) :
    (∀ j : ASel, (j.val < first ∨ first + gs.length ≤ j.val) → (writeBatch s first gs).aReg[j] = s.aReg[j]) ∧
    ∀ (j : ASel) (k : Nat) (hk : k < gs.length), j.val = first + k →
      (writeBatch s first gs).aReg[j] = geToReg gs[k] := by
  induction gs generalizing s first with
  | nil => exact ⟨fun _ _ => rfl, fun _ k hk => absurd hk (Nat.not_lt_zero k)⟩
  | cons g rest ih =>
    simp only [List.length_cons] at h
    obtain ⟨hout, hin⟩ := ih (s.writeA (Fin.ofNat 8 first) g) (first + 1) (by omega)
    have hfirst : (Fin.ofNat 8 first).val = first := Nat.mod_eq_of_lt (by omega)
    refine ⟨fun j hj => ?_, fun j k hk hjk => ?_⟩
    · simp only [List.length_cons] at hj
      rw [writeBatch, hout j (by omega)]
      have hne : (Fin.ofNat 8 first).val ≠ j.val := by omega
      exact Vector.getElem_set_ne (Fin.ofNat 8 first).isLt j.isLt hne
    · rw [writeBatch]
      cases k with
      | zero =>
        rw [hout j (by omega)]
        have hj : Fin.ofNat 8 first = j := Fin.ext (by omega)
        subst hj
        simp [State.writeA]
      | succ k => simpa using hin j k (by simpa using hk) (by omega)

/-! ### The sampling loop of `GEN_BLIND` (44_generator.md R266) -/

/-- A loop keeps the first acceptable output of at most `tries`, and the outputs it drew are the ones it looked at. -/
theorem sampleBelow_spec (draw : Nat → Nat) (bound tries t : Nat) :
    (∃ u, t ≤ u ∧ u < t + tries ∧ (∀ v, t ≤ v → v < u → ¬ (0 < draw v ∧ draw v < bound)) ∧
      ∃ h : 0 < draw u ∧ draw u < bound, sampleBelow draw bound tries t = (some ⟨draw u, h.2⟩, u + 1)) ∨
    ((∀ v, t ≤ v → v < t + tries → ¬ (0 < draw v ∧ draw v < bound)) ∧
      sampleBelow draw bound tries t = (none, t + tries)) := by
  induction tries generalizing t with
  | zero => exact .inr ⟨fun v h1 h2 => by omega, rfl⟩
  | succ tries ih =>
    by_cases h : 0 < draw t ∧ draw t < bound
    · exact .inl ⟨t, le_rfl, by omega, fun v h1 h2 => by omega, h, by simp [sampleBelow, h]⟩
    · rw [sampleBelow, dif_neg h]
      rcases ih (t + 1) with ⟨u, h1, h2, h3, h4, h5⟩ | ⟨h1, h2⟩
      · refine .inl ⟨u, by omega, by omega, fun v hv1 hv2 => ?_, h4, h5⟩
        rcases Nat.eq_or_lt_of_le hv1 with rfl | hlt
        · exact h
        · exact h3 v hlt hv2
      · refine .inr ⟨fun v hv1 hv2 => ?_, by rw [h2, Nat.add_right_comm, Nat.add_assoc]⟩
        rcases Nat.eq_or_lt_of_le hv1 with rfl | hlt
        · exact h
        · exact h1 v hlt (by omega)

end Sys2Proof.Machine
end

