-- ==== Sys2Proof/Laws/Host.lean ====
section
/-! SUPPORT. What the host port can do, said once: the words of a 256-bit value, the `CMD` write, and the inversion lemma
of a step. -/

namespace Sys2Proof.Machine

/-! ### The words of a 256-bit value (20_memory.md R84) -/

/-- A bit of a value with one word replaced. -/
theorem setWord_getLsbD (v : U256) (k : Fin 8) (w : Word) (i : Nat) (hi : i < 256) :
    (setWord v k w).getLsbD i = if i / 32 = k.val then w.getLsbD (i - 32 * k.val) else v.getLsbD i := by
  have hmask : ((0xFFFFFFFF : U256).getLsbD (i - 32 * k.val)) = decide (i - 32 * k.val < 32) := by
    have : (0xFFFFFFFF : U256) = BitVec.setWidth 256 (BitVec.allOnes 32) := by decide
    rw [this, BitVec.getLsbD_setWidth, BitVec.getLsbD_allOnes]
    simp only [show i - 32 * k.val < 256 by omega, decide_true, Bool.true_and]
  simp only [setWord, BitVec.getLsbD_or, BitVec.getLsbD_and, BitVec.getLsbD_not, BitVec.getLsbD_shiftLeft, hmask,
    BitVec.zeroExtend_eq_setWidth, BitVec.getLsbD_setWidth, hi, decide_true, Bool.true_and,
    show i - 32 * k.val < 256 by omega]
  by_cases hlt : i < 32 * k.val
  · rw [if_neg (by omega)]
    simp [hlt]
  · by_cases hin : i - 32 * k.val < 32
    · rw [if_pos (by omega)]
      simp [hlt, hin]
    · rw [if_neg (by omega)]
      have hw : w.getLsbD (i - 32 * k.val) = false := BitVec.getLsbD_of_ge _ _ (by omega)
      simp [hlt, hin, hw]

/-- The word written reads back, and the other words stay (20_memory.md R83, R84). -/
theorem getWord_setWord (v : U256) (k j : Fin 8) (w : Word) :
    getWord (setWord v k w) j = if j = k then w else getWord v j := by
  apply BitVec.eq_of_getLsbD_eq
  intro i hi
  rw [getWord, BitVec.getLsbD_extractLsb', setWord_getLsbD _ _ _ _ (by omega)]
  simp only [hi, decide_true, Bool.true_and]
  by_cases hjk : j = k
  · subst hjk
    rw [if_pos (by omega), if_pos rfl]
    congr 1
    omega
  · rw [if_neg (fun h => hjk (Fin.ext (by omega))), if_neg hjk, getWord, BitVec.getLsbD_extractLsb']
    simp [hi]

@[simp] theorem lowBit_bitWord (b : Bool) : lowBit (bitWord b) = b := by cases b <;> rfl

/-! ### Admission (20_memory.md R85, R96) -/

/-- An access names a register word exactly where it is 32 bits wide, aligned, and at a mapped offset. -/
theorem target_some_iff (width : Nat) (offset : BitVec 13) (r : HostReg) :
    target width offset = some r ↔ width = 32 ∧ offset.toNat % 4 = 0 ∧ locate offset.toNat = some r := by
  unfold target admitted
  by_cases hw : width = 32 <;> by_cases ho : offset.toNat % 4 = 0 <;> simp [hw, ho]

/-! ### The `CMD` write (30_encoding.md R110; 60_exceptions.md R332, R341) -/

theorem cmdWrite_inFault (w : Word) (s : State) (h : s.fault = true) : cmdWrite w s = .next s := by
  simp [cmdWrite, h]

theorem cmdWrite_legal (w : Word) (s : State) (i : Instr) (h : s.fault = false) (hd : decode w = .ok i) :
    cmdWrite w s = exec i s := by
  simp [cmdWrite, h, hd]

theorem cmdWrite_illegal (w : Word) (s : State) (e : Illegal) (h : s.fault = false) (hd : decode w = .error e) :
    cmdWrite w s = .next (s.takeIllegal w) := by
  simp [cmdWrite, h, hd]

/-- Everything a `CMD` write can do. -/
theorem cmdWrite_cases (w : Word) (s : State) :
    (s.fault = true ∧ cmdWrite w s = .next s) ∨
    (s.fault = false ∧ (∃ e, decode w = .error e) ∧ cmdWrite w s = .next (s.takeIllegal w)) ∨
    (s.fault = false ∧ ∃ i, decode w = .ok i ∧ cmdWrite w s = exec i s) := by
  cases hf : s.fault
  · cases hd : decode w with
    | error e => exact .inr (.inl ⟨rfl, ⟨e, rfl⟩, cmdWrite_illegal w s e hf hd⟩)
    | ok i => exact .inr (.inr ⟨rfl, i, rfl, cmdWrite_legal w s i hf hd⟩)
  · exact .inl ⟨rfl, cmdWrite_inFault w s hf⟩

/-! ### The step (20_memory.md R91) -/

/-- Everything a step can do. -/
theorem step_cases {s t : State} (h : step s = .next t) :
    (s.host = [] ∧ t = s) ∨
    ∃ a rest, s.host = a :: rest ∧
      ((∃ width offset, a = .read width offset ∧
          ((target width offset = none ∧ t = { s with host := rest, response := .busError }) ∨
            ∃ r, target width offset = some r ∧ t = { s with host := rest, response := .data (loadReg s r) })) ∨
        (∃ width offset w, a = .write width offset w ∧
          ((target width offset = none ∧ t = { s with host := rest, response := .busError }) ∨
            (target width offset = some .cmd ∧ cmdWrite w { s with host := rest, response := .accepted } = .next t) ∨
            (target width offset = some .ctrl ∧ t = ctrlWrite w { s with host := rest, response := .accepted }) ∨
            ∃ r, r ≠ .cmd ∧ r ≠ .ctrl ∧ target width offset = some r ∧
              t = if s.fault then { s with host := rest, response := .accepted }
                else storeReg { s with host := rest, response := .accepted } r w)) ∨
        (a = .hardReset ∧ t = ({ s with host := rest, response := .accepted } : State).resetBlock)) := by
  unfold step takeAccess at h
  split at h
  · next hnil => exact .inl ⟨hnil, by simpa using h.symm⟩
  next a rest hcons =>
  refine .inr ⟨a, rest, hcons, ?_⟩
  cases a with
  | hardReset => exact .inr (.inr ⟨rfl, by simpa [hostAccess, State.resetBlock, State.respond] using h.symm⟩)
  | read width offset =>
    refine .inl ⟨width, offset, rfl, ?_⟩
    simp only [hostAccess, hostRead] at h
    split at h
    · next hn => exact .inl ⟨hn, by simpa [State.respond] using h.symm⟩
    · next r hr =>
      refine .inr ⟨r, hr, ?_⟩
      have : loadReg { s with host := rest } r = loadReg s r := by cases r <;> rfl
      simpa [State.respond, this] using h.symm
  | write width offset w =>
    refine .inr (.inl ⟨width, offset, w, rfl, ?_⟩)
    simp only [hostAccess, hostWrite] at h
    split at h
    · next hn => exact .inl ⟨hn, by simpa [State.respond] using h.symm⟩
    · next hr => exact .inr (.inl ⟨hr, h⟩)
    · next hr => exact .inr (.inr (.inl ⟨hr, by simpa [State.respond] using h.symm⟩))
    · next r hcmd hctrl hr =>
      refine .inr (.inr (.inr ⟨r, fun e => hcmd e, fun e => hctrl e, hr, ?_⟩))
      simpa [State.respond] using h.symm

end Sys2Proof.Machine
end

