-- ==== Sys2Proof/Laws/Decode.lean ====
section
/-! SUPPORT. The laws of the encoding: what a field of a composed word reads, when a field test passes, and how many bits
each command's operands take. -/

namespace Sys2Proof

/-- A field of the word with the number `v`. -/
theorem field_ofNat (v lo cnt : Nat) (hv : v < 2 ^ 32) :
    field (BitVec.ofNat 32 v) lo cnt = v / 2 ^ lo % 2 ^ cnt := by
  rw [field, BitVec.toNat_ofNat, Nat.mod_eq_of_lt hv]

theorem field_lt (w : Word) (lo cnt : Nat) : field w lo cnt < 2 ^ cnt := Nat.mod_lt _ (by positivity)

/-- The opcode field is the low byte. -/
theorem field_opcode (w : Word) : field w 0 8 = (w.extractLsb' 0 8).toNat := by
  simp [field, BitVec.extractLsb'_toNat]

/-- The test of the unused fields passes exactly where they are all 0 (30_encoding.md R115 (b)). -/
theorem requireZero_ok_iff (fields : List Nat) : requireZero fields = .ok () ↔ ∀ f ∈ fields, f = 0 := by
  unfold requireZero
  split
  · rename_i h
    simpa using h
  · rename_i h
    simpa using h

theorem requireZero_cases (fields : List Nat) :
    requireZero fields = .ok () ∨ requireZero fields = .error .nonzeroField := by
  unfold requireZero
  split <;> simp

@[simp] theorem selector_val (k : Nat) (v : Fin k) : selector k v.val = .ok v := by simp [selector]

@[simp] theorem slot_val (k : Nat) (v : Fin k) : slot k v.val = .ok v := by simp [slot]

/-- A selector test passes exactly for a number in range, with that number (30_encoding.md R112). -/
theorem selector_ok_iff (k v : Nat) (x : Fin k) : selector k v = .ok x ↔ x.val = v := by
  unfold selector
  split
  · simp [Fin.ext_iff, eq_comm]
  · simp only [reduceCtorEq, false_iff]
    have := x.isLt
    omega

/-- A slot test passes exactly for a number in range, with that number (30_encoding.md R112). -/
theorem slot_ok_iff (k v : Nat) (x : Fin k) : slot k v = .ok x ↔ x.val = v := by
  unfold slot
  split
  · simp [Fin.ext_iff, eq_comm]
  · simp only [reduceCtorEq, false_iff]
    have := x.isLt
    omega

/-- `BATCH_NORM` decodes exactly where its count and ranges are right (30_encoding.md R115 (e)). -/
theorem batchOperands_ok_iff (rd : ASel) (ra : JSel) (count : Fin 16) (i : Instr) :
    batchOperands rd ra count = .ok i ↔ BatchRangeOk rd ra count ∧ i = .batchNorm rd ra count := by
  unfold batchOperands
  split
  · rename_i h
    rw [Except.ok.injEq, eq_comm]
    exact (and_iff_right h).symm
  · rename_i h
    simp [h]

/-! ### The low byte of a composed word (30_encoding.md R110) -/

theorem lowByte_ofNat (op : Byte) (rest : Nat) :
    (BitVec.ofNat 32 (op.toNat + 2 ^ 8 * rest)).extractLsb' 0 8 = op := by
  apply BitVec.eq_of_toNat_eq
  simp only [BitVec.extractLsb'_toNat, BitVec.toNat_ofNat, Nat.shiftRight_zero]
  have := op.isLt
  omega

theorem wordR_lowByte (op : Byte) (rd ra rb rc cs cx : Nat) :
    (wordR op rd ra rb rc cs cx).extractLsb' 0 8 = op := by
  rw [wordR, show op.toNat + rd * 2 ^ 8 + ra * 2 ^ 12 + rb * 2 ^ 16 + rc * 2 ^ 20 + cs * 2 ^ 28 + cx * 2 ^ 30 =
    op.toNat + 2 ^ 8 * (rd + ra * 2 ^ 4 + rb * 2 ^ 8 + rc * 2 ^ 12 + cs * 2 ^ 20 + cx * 2 ^ 22) by ring]
  exact lowByte_ofNat _ _

theorem wordT_lowByte (op : Byte) (rd ra j cx : Nat) : (wordT op rd ra j cx).extractLsb' 0 8 = op := by
  rw [wordT, show op.toNat + rd * 2 ^ 8 + ra * 2 ^ 12 + j * 2 ^ 16 + cx * 2 ^ 30 =
    op.toNat + 2 ^ 8 * (rd + ra * 2 ^ 4 + j * 2 ^ 8 + cx * 2 ^ 22) by ring]
  exact lowByte_ofNat _ _

theorem wordW_lowByte (op : Byte) (rd ra w len : Nat) : (wordW op rd ra w len).extractLsb' 0 8 = op := by
  rw [wordW, show op.toNat + rd * 2 ^ 8 + ra * 2 ^ 12 + w * 2 ^ 16 + len * 2 ^ 21 =
    op.toNat + 2 ^ 8 * (rd + ra * 2 ^ 4 + w * 2 ^ 8 + len * 2 ^ 13) by ring]
  exact lowByte_ofNat _ _

theorem wordI_lowByte (op : Byte) (rd simm16 cx : Nat) : (wordI op rd simm16 cx).extractLsb' 0 8 = op := by
  rw [wordI, show op.toNat + rd * 2 ^ 8 + simm16 * 2 ^ 12 + cx * 2 ^ 30 =
    op.toNat + 2 ^ 8 * (rd + simm16 * 2 ^ 4 + cx * 2 ^ 22) by ring]
  exact lowByte_ofNat _ _

end Sys2Proof
end

