-- ==== Sys2Proof/Laws/PerInstr.lean ====
section
/-! SUPPORT. The statements made of every command, constructor by constructor. `OpcodeByte`: bits 7:0 of a command's word
are its opcode (30_encoding.md R110). -/

namespace Sys2Proof.Laws

/-- Bits 7:0 of the command's word are its opcode (30_encoding.md R110). -/
def OpcodeByte.Statement (i : Instr) : Prop := (encode i).extractLsb' 0 8 = i.opcode

theorem OpcodeByte.gejSetGe (rd : JSel) (ra : ASel) : OpcodeByte.Statement (.gejSetGe rd ra) :=
  wordR_lowByte ..

theorem OpcodeByte.geSetGej (rd : ASel) (ra : JSel) : OpcodeByte.Statement (.geSetGej rd ra) :=
  wordR_lowByte ..

theorem OpcodeByte.geSetGejVar (rd : ASel) (ra : JSel) : OpcodeByte.Statement (.geSetGejVar rd ra) :=
  wordR_lowByte ..

theorem OpcodeByte.geSetGejZinv (rd : ASel) (ra : JSel) (rc : FSel) : OpcodeByte.Statement (.geSetGejZinv rd ra rc) :=
  wordR_lowByte ..

theorem OpcodeByte.batchNorm (rd : ASel) (ra : JSel) (count : Fin 16) : OpcodeByte.Statement (.batchNorm rd ra count) :=
  wordR_lowByte ..

theorem OpcodeByte.geNeg (rd ra : ASel) : OpcodeByte.Statement (.geNeg rd ra) :=
  wordR_lowByte ..

theorem OpcodeByte.gejNeg (rd ra : JSel) : OpcodeByte.Statement (.gejNeg rd ra) :=
  wordR_lowByte ..

theorem OpcodeByte.geValid (ra : ASel) : OpcodeByte.Statement (.geValid ra) :=
  wordR_lowByte ..

theorem OpcodeByte.gejRescale (rd ra : JSel) (rc : FSel) : OpcodeByte.Statement (.gejRescale rd ra rc) :=
  wordR_lowByte ..

theorem OpcodeByte.geToSt (rd : TSel) (ra : ASel) : OpcodeByte.Statement (.geToSt rd ra) :=
  wordR_lowByte ..

theorem OpcodeByte.geFromSt (rd : ASel) (ra : TSel) : OpcodeByte.Statement (.geFromSt rd ra) :=
  wordR_lowByte ..

theorem OpcodeByte.stCmov (rd ra : TSel) : OpcodeByte.Statement (.stCmov rd ra) :=
  wordR_lowByte ..

theorem OpcodeByte.stCsel (rd ra rb : TSel) : OpcodeByte.Statement (.stCsel rd ra rb) :=
  wordR_lowByte ..

theorem OpcodeByte.gejDblVar (rd ra : JSel) (rc : FSel) : OpcodeByte.Statement (.gejDblVar rd ra rc) :=
  wordR_lowByte ..

theorem OpcodeByte.gejAddVar (rd ra rb : JSel) (rc : FSel) : OpcodeByte.Statement (.gejAddVar rd ra rb rc) :=
  wordR_lowByte ..

theorem OpcodeByte.gejAddGeVar (rd ra : JSel) (rb : ASel) : OpcodeByte.Statement (.gejAddGeVar rd ra rb) :=
  wordR_lowByte ..

theorem OpcodeByte.gejAddZinvVar (rd ra : JSel) (rb : ASel) (rc : FSel) : OpcodeByte.Statement (.gejAddZinvVar rd ra rb rc) :=
  wordR_lowByte ..

theorem OpcodeByte.gejAddGe (rd ra : JSel) (rb : ASel) : OpcodeByte.Statement (.gejAddGe rd ra rb) :=
  wordR_lowByte ..

theorem OpcodeByte.scAdd (rd ra rb : SSel) : OpcodeByte.Statement (.scAdd rd ra rb) :=
  wordR_lowByte ..

theorem OpcodeByte.scMul (rd ra rb : SSel) : OpcodeByte.Statement (.scMul rd ra rb) :=
  wordR_lowByte ..

theorem OpcodeByte.scNeg (rd ra : SSel) : OpcodeByte.Statement (.scNeg rd ra) :=
  wordR_lowByte ..

theorem OpcodeByte.scInv (rd ra : SSel) : OpcodeByte.Statement (.scInv rd ra) :=
  wordR_lowByte ..

theorem OpcodeByte.scInvVar (rd ra : SSel) : OpcodeByte.Statement (.scInvVar rd ra) :=
  wordR_lowByte ..

theorem OpcodeByte.scIsEven (ra : SSel) : OpcodeByte.Statement (.scIsEven ra) :=
  wordR_lowByte ..

theorem OpcodeByte.wnaf (rd : WSel) (ra : SSel) (w : Fin 32) (len : Fin 512) : OpcodeByte.Statement (.wnaf rd ra w len) :=
  wordW_lowByte ..

theorem OpcodeByte.genBuild (cx : GSlot) : OpcodeByte.Statement (.genBuild cx) :=
  wordR_lowByte ..

theorem OpcodeByte.genBlind (cx : GSlot) : OpcodeByte.Statement (.genBlind cx) :=
  wordR_lowByte ..

theorem OpcodeByte.genMul (rd : JSel) (ra : SSel) (cx : GSlot) : OpcodeByte.Statement (.genMul rd ra cx) :=
  wordR_lowByte ..

theorem OpcodeByte.genClone (cx cs : GSlot) : OpcodeByte.Statement (.genClone cx cs) :=
  wordR_lowByte ..

theorem OpcodeByte.genClear (cx : GSlot) : OpcodeByte.Statement (.genClear cx) :=
  wordR_lowByte ..

theorem OpcodeByte.genSel (rd : TSel) (ra : SSel) (j : Fin 64) (cx : GSlot) : OpcodeByte.Statement (.genSel rd ra j cx) :=
  wordT_lowByte ..

theorem OpcodeByte.genRd (rd : TSel) (i : Fin 16) (j : Fin 64) (cx : GSlot) : OpcodeByte.Statement (.genRd rd i j cx) :=
  wordT_lowByte ..

theorem OpcodeByte.mulBuild (cx : MSlot) : OpcodeByte.Statement (.mulBuild cx) :=
  wordR_lowByte ..

theorem OpcodeByte.mulClone (cx cs : MSlot) : OpcodeByte.Statement (.mulClone cx cs) :=
  wordR_lowByte ..

theorem OpcodeByte.mulClear (cx : MSlot) : OpcodeByte.Statement (.mulClear cx) :=
  wordR_lowByte ..

theorem OpcodeByte.pregLookup (rd : ASel) (simm16 : BitVec 16) (cx : MSlot) : OpcodeByte.Statement (.pregLookup rd simm16 cx) :=
  wordI_lowByte ..

theorem OpcodeByte.dualMul (rd : JSel) (ra : ASel) (rb rc : SSel) (cx : MSlot) : OpcodeByte.Statement (.dualMul rd ra rb rc cx) :=
  wordR_lowByte ..

end Sys2Proof.Laws
end

