-- ==== Sys2Proof/Laws/Claims.lean ====
section
/-! SUPPORT. The small laws of the terms the claims use: from how a meaning ends to what `Completes`, `RaisesFault` and
`leakFault` say of it, and the operand values as integers. -/

namespace Sys2Proof.Machine

/-! ### The architectural part of a state -/

@[simp] theorem State.arch_recordLeak (s : State) (i : Instr) (f : Option Fault) (tr : Trace) :
    (s.recordLeak i f tr).arch = s.arch := by
  unfold State.recordLeak; split <;> rfl

@[simp] theorem State.arch_respond (s : State) (r : Response) : (s.respond r).arch = s.arch := rfl

@[simp] theorem State.leakFault_recordLeak (s : State) (i : Instr) (f : Option Fault) (tr : Trace) :
    (s.recordLeak i f tr).leakFault = f := by
  simp [State.leakFault, State.recordLeak_leak]

@[simp] theorem State.leakDraws_recordLeak (s : State) (i : Instr) (f : Option Fault) (tr : Trace) :
    (s.recordLeak i f tr).leakDraws = some tr.draws := by
  simp [State.leakDraws, State.recordLeak_leak]

@[simp] theorem State.leakReads_recordLeak (s : State) (i : Instr) (f : Option Fault) (tr : Trace) :
    (s.recordLeak i f tr).leakReads = some tr.reads := by
  simp [State.leakReads, State.recordLeak_leak]

/-! ### From the end of a meaning to a claim -/

/-- A meaning that ends in the results `u` completes in every state with the architectural part of `u`. -/
theorem completes_of_ok {i : Instr} {s u after : State} {tr : Trace} (h : exec i s = finish i s tr (.ok u))
    (harch : u.arch = after.arch) (hhost : u.host = s.host) (hresp : u.response = s.response) :
    Completes i s after :=
  ⟨u.recordLeak i none tr, by rw [h, finish_ok], by simp [harch], by simp [hhost], by simp [hresp]⟩

/-- Bits 7:0 of the word a command encodes to are its opcode. -/
theorem encode_lowByte (i : Instr) : (encode i).extractLsb' 0 8 = i.opcode := by
  cases i
  case genSel | genRd => exact wordT_lowByte ..
  case wnaf => exact wordW_lowByte ..
  case pregLookup => exact wordI_lowByte ..
  all_goals exact wordR_lowByte ..

/-- A meaning that ends in a fault raises that fault. -/
theorem raisesFault_of_error {i : Instr} {s : State} {tr : Trace} {f : Fault}
    (h : exec i s = finish i s tr (.error f)) : RaisesFault i s f.code :=
  ⟨(s.takeFault f i.opcode).recordLeak i (some f) tr, by rw [h, finish_error],
    by rw [State.arch_recordLeak, encode_lowByte]; rfl, by simp, by simp⟩

/-! ### Operand values as integers -/

theorem sVal_eq (s : State) (i : SSel) : s.sVal i = ((s.readS i).val : Int) := by
  simp [State.sVal, State.readS, scOfRaw]

theorem fVal_eq (s : State) (i : FSel) : s.fVal i = ((s.readF i).val : Int) := by
  simp [State.fVal, State.readF, feOfRaw]

theorem coord_eq (raw : U256) : coord raw = ((feOfRaw raw).val : Int) := by
  simp [coord, feOfRaw]

/-- The content of a field result is that of any integer that agrees with it mod `p`. -/
theorem feToRaw_eq_rawP (a : Fe) (v : Int) (h : (v - a.val) % Config.p = 0) : feToRaw a = rawP v := by
  have hv : v % Config.p = a.val := by
    have h1 : v % Config.p = (a.val : Int) % Config.p :=
      (Int.ModEq.symm (Int.modEq_of_dvd (Int.dvd_of_emod_eq_zero h)))
    rw [h1, Int.emod_eq_of_lt (by positivity) (by exact_mod_cast a.isLt)]
  rw [rawP, hv, feToRaw, BitVec.ofInt_natCast]

/-- The content of a scalar result is that of any integer that agrees with it mod `n`. -/
theorem scToRaw_eq_rawN (a : Sc) (v : Int) (h : (v - a.val) % Config.n = 0) : scToRaw a = rawN v := by
  have hv : v % Config.n = a.val := by
    have h1 : v % Config.n = (a.val : Int) % Config.n :=
      (Int.ModEq.symm (Int.modEq_of_dvd (Int.dvd_of_emod_eq_zero h)))
    rw [h1, Int.emod_eq_of_lt (by positivity) (by exact_mod_cast a.isLt)]
  rw [rawN, hv, scToRaw, BitVec.ofInt_natCast]

end Sys2Proof.Machine
end

