-- ==== Sys2Proof/Tests/Slice0.lean ====
section
/-! SUPPORT. The model's own tests. Every expected value is from the spec: the command words and results of
95_test_vectors.md (each test names its vector), the worked encodings of 30_encoding.md R122 and the values of the rules.
After the tests stand the witnesses: for every statement with hypotheses, concrete states and operands that meet them
together. -/


namespace Sys2Proof.Tests

-- One test after another: each that runs beside others would take a stack of its own.
set_option Elab.async false

open Sys2Proof.Machine

/-! ### Well-formedness (30_encoding.md R113, R115 (e)) -/

theorem test_batch_wellFormed : (Instr.batchNorm 0 0 8).wellFormed = true := by decide
theorem test_batch_count_zero_illFormed : (Instr.batchNorm 0 0 0).wellFormed = false := by decide
theorem test_batch_count_nine_illFormed : (Instr.batchNorm 0 0 9).wellFormed = false := by decide
theorem test_batch_destinations_illFormed : (Instr.batchNorm 4 0 5).wellFormed = false := by decide
theorem test_batch_sources_illFormed : (Instr.batchNorm 0 7 2).wellFormed = false := by decide

/-! ### Decoding: one word of each command, as 95_test_vectors.md writes it -/

/-- V40.1. -/
theorem test_decode_gejSetGe : (decode 0x00000110).toOption = some (.gejSetGe 1 0) := by decide
/-- V40.3. -/
theorem test_decode_geSetGej : (decode 0x00001211).toOption = some (.geSetGej 2 1) := by decide
/-- V40.5. -/
theorem test_decode_geSetGejVar : (decode 0x00001212).toOption = some (.geSetGejVar 2 1) := by decide
/-- V40.7. -/
theorem test_decode_geSetGejZinv : (decode 0x00000113).toOption = some (.geSetGejZinv 1 0 0) := by decide
/-- V40.9. -/
theorem test_decode_batchNorm : (decode 0x00020414).toOption = some (.batchNorm 4 0 2) := by decide
/-- V40.13. -/
theorem test_decode_geNeg : (decode 0x00000115).toOption = some (.geNeg 1 0) := by decide
/-- V40.15. -/
theorem test_decode_gejNeg : (decode 0x00000116).toOption = some (.gejNeg 1 0) := by decide
/-- V40.16. -/
theorem test_decode_geValid : (decode 0x00000017).toOption = some (.geValid 0) := by decide
/-- V40.20. -/
theorem test_decode_gejRescale : (decode 0x00100118).toOption = some (.gejRescale 1 0 1) := by decide
/-- V40.24. -/
theorem test_decode_geToSt : (decode 0x00000119).toOption = some (.geToSt 1 0) := by decide
/-- V40.26. -/
theorem test_decode_geFromSt : (decode 0x0000031A).toOption = some (.geFromSt 3 0) := by decide
/-- V40.28. -/
theorem test_decode_stCmov : (decode 0x0000101B).toOption = some (.stCmov 0 1) := by decide
/-- V40.30. -/
theorem test_decode_stCsel : (decode 0x0002101C).toOption = some (.stCsel 0 1 2) := by decide
/-- V41.1. -/
theorem test_decode_gejDblVar : (decode 0x00200120).toOption = some (.gejDblVar 1 0 2) := by decide
/-- V41.3. -/
theorem test_decode_gejAddVar : (decode 0x00010221).toOption = some (.gejAddVar 2 0 1 0) := by decide
/-- V41.9. -/
theorem test_decode_gejAddGeVar : (decode 0x00000122).toOption = some (.gejAddGeVar 1 0 0) := by decide
/-- V41.13. -/
theorem test_decode_gejAddZinvVar : (decode 0x00000123).toOption = some (.gejAddZinvVar 1 0 0 0) := by decide
/-- V41.15. -/
theorem test_decode_gejAddGe : (decode 0x00000124).toOption = some (.gejAddGe 1 0 0) := by decide
/-- V42.1. -/
theorem test_decode_scAdd : (decode 0x00010230).toOption = some (.scAdd 2 0 1) := by decide
/-- V42.4. -/
theorem test_decode_scMul : (decode 0x00010231).toOption = some (.scMul 2 0 1) := by decide
/-- V42.6. -/
theorem test_decode_scNeg : (decode 0x00000232).toOption = some (.scNeg 2 0) := by decide
/-- V42.8. -/
theorem test_decode_scInv : (decode 0x00000233).toOption = some (.scInv 2 0) := by decide
/-- V42.10. -/
theorem test_decode_scInvVar : (decode 0x00000234).toOption = some (.scInvVar 2 0) := by decide
/-- V42.14. -/
theorem test_decode_scIsEven : (decode 0x00000035).toOption = some (.scIsEven 0) := by decide
/-- V43.3. -/
theorem test_decode_wnaf : (decode 0x01040140).toOption = some (.wnaf 1 0 4 8) := by decide
/-- V44.25. -/
theorem test_decode_genBuild : (decode 0x40000050).toOption = some (.genBuild 1) := by decide
/-- V44.2. -/
theorem test_decode_genBlind : (decode 0x40000051).toOption = some (.genBlind 1) := by decide
/-- V44.1. -/
theorem test_decode_genMul : (decode 0x00000052).toOption = some (.genMul 0 0 0) := by decide
/-- V44.26. -/
theorem test_decode_genClone : (decode 0x10000053).toOption = some (.genClone 0 1) := by decide
/-- V44.28. -/
theorem test_decode_genClear : (decode 0x40000054).toOption = some (.genClear 1) := by decide
/-- V44.14. -/
theorem test_decode_genSel : (decode 0x003F1055).toOption = some (.genSel 0 1 63 0) := by decide
/-- V44.19. -/
theorem test_decode_genRd : (decode 0x003FF056).toOption = some (.genRd 0 15 63 0) := by decide
/-- V45.25. -/
theorem test_decode_mulBuild : (decode 0x40000060).toOption = some (.mulBuild 1) := by decide
/-- V45.21. -/
theorem test_decode_mulClone : (decode 0x40000061).toOption = some (.mulClone 1 0) := by decide
/-- V45.20. -/
theorem test_decode_mulClear : (decode 0x40000062).toOption = some (.mulClear 1) := by decide
/-- V45.9. -/
theorem test_decode_pregLookup : (decode 0x08001163).toOption = some (.pregLookup 1 (BitVec.ofInt 16 (-32767)) 0) := by decide
/-- V45.10. -/
theorem test_decode_dualMul : (decode 0x00210164).toOption = some (.dualMul 1 0 1 2 0) := by decide

/-- V30.1, V30.2: reserved opcodes. -/
theorem test_decode_reserved : decode 0x00000000 = .error .reservedOpcode ∧ decode 0xFFFFFFFF = .error .reservedOpcode := by
  decide
/-- V30.3: an unused field that is not 0. -/
theorem test_decode_unusedField : decode 0x00010010 = .error .nonzeroField := by decide
/-- V30.4: `SC_ADD` with `rd = 8`. -/
theorem test_decode_selector : decode 0x00000830 = .error .selectorRange := by decide
/-- V30.5: `GEN_BUILD` with `cx = 2`. -/
theorem test_decode_slot : decode 0x80000050 = .error .slotRange := by decide
/-- V40.11, V40.12: `BATCH_NORM` with `N = 0`, and with `rd + N = 9`. -/
theorem test_decode_batch : decode 0x00000414 = .error .batchRange ∧ decode 0x00050414 = .error .batchRange := by decide

/-! ### Running one step -/

/-- The state after the step of one host access; a step that answers no next state would leave `s`. -/
def access (s : State) (a : HostAccess) : State :=
  match step { s with host := [a] } with
  | .next t => t
  | .fault _ | .refused _ => s

/-- The state after a `CMD` write of `w`, reached as the host reaches it. -/
def after (s : State) (w : Nat) : State :=
  match step (s.withFetchWord 32 w) with
  | .next t => t
  | .fault _ | .refused _ => s

/-- A write of a word at an offset. -/
abbrev wr (s : State) (offset : BitVec 13) (w : Word) : State := access s (.write 32 offset w)

/-- What a read of a word at an offset is answered. -/
abbrev rd (s : State) (offset : BitVec 13) : Response := (access s (.read 32 offset)).response

/-- The state right after reset. -/
abbrev s0 : State := State.reset

/-- `FAULTINFO` with this code, raised by this opcode. -/
abbrev Raised (s : State) (code op : Byte) : Prop := s.fault = true ∧ s.faultInfo = ⟨code, op⟩

/-- Slot `G0` built, as `GEN_BUILD G0` leaves it. -/
def builtG : State := s0.putG 0 ⟨some genTable, ⟨feOfNat Config.gx, feOfNat Config.gy, feOfNat 1, false⟩, scOfNat 1⟩

/-- Slot `M0` built, as `MUL_BUILD M0` leaves it. -/
def builtM : State := s0.putM 0 ⟨some mulTable⟩

/-- `2·G` in `A[0]` (45_dual_mul.md R310). -/
def twoG : AReg :=
  ⟨0xC6047F9441ED7D6D3045406E95C07CD85C778E4B8CEF3CA7ABAC09B95C709EE5,
   0x1AE168FEA63DC339A3C58419466CEAEEF7F632653266D0E1236431A950CFE52A, false⟩

/-- `U_AUX` is the sum of the point with the even `y` at the `x` of the constant string, and `G` (44_generator.md R262). -/
theorem test_auxPoint_construction :
    let xu := feOfNat 0x546865207363616C617220666F722074686973207820697320756E6B6E6F776E
    ∃ yu, (fsqrt (fadd (fmul (fsqr xu) xu) (feOfNat 7))).map (fun y => if y.val % 2 = 1 then fneg y else y) = some yu ∧
      affineOf (gejAddGe ⟨xu, yu, feOfNat 1, false⟩ basePoint) = auxPoint :=
  ⟨⟨0x28EBB7E4E1F6A12E1C0FAAF47E09C33305D50890856930E67E5299348FF7F20E, by decide⟩, by decide +kernel, by decide +kernel⟩

/-! ### Conversions (family 40) -/

/-- V40.1. -/
theorem test_gejSetGe :
    (after (s0.putA 0 ⟨5, 9, false⟩) 0x00000110).jReg[1] = ⟨5, 9, 1, false⟩ := by decide +kernel
/-- V40.3, V40.4. -/
theorem test_geSetGej :
    (after (s0.putJ 1 ⟨20, 72, 2, false⟩) 0x00001211).aReg[2] = ⟨5, 9, false⟩ ∧
    Raised (after (s0.putJ 1 ⟨20, 72, 0, false⟩) 0x00001211) 0x03 0x11 := by decide +kernel
/-- V40.5, V40.6. -/
theorem test_geSetGejVar :
    (after s0 0x00001212).aReg[2] = ⟨0, 0, true⟩ ∧
    (after (s0.putJ 1 ⟨0xFFFFFFFFFFFFFFFFFFFFFFFFFFFFFFFFFFFFFFFFFFFFFFFFFFFFFFFEFFFFFC43, 72, 2, false⟩) 0x00001212).aReg[2] = ⟨5, 9, false⟩ := by decide +kernel
/-- V40.7, V40.8. -/
theorem test_geSetGejZinv :
    (after ((s0.putJ 0 ⟨8, 27, 5, false⟩).putF 0 2) 0x00000113).aReg[1] = ⟨32, 216, false⟩ ∧
    (after (s0.putJ 0 ⟨8, 27, 5, false⟩) 0x00000113).aReg[1] = ⟨0, 0, false⟩ := by decide +kernel
/-- V40.9, V40.10. -/
theorem test_batchNorm :
    (after (s0.putJ 0 ⟨20, 72, 2, false⟩) 0x00020414).aReg[4] = ⟨5, 9, false⟩ ∧
    Raised (after ((s0.putJ 0 ⟨20, 72, 2, false⟩).putJ 1 ⟨1, 1, 0, false⟩) 0x00020414) 0x03 0x14 := by decide +kernel
/-- V40.13, V40.14. -/
theorem test_geNeg :
    (after (s0.putA 0 ⟨5, 9, false⟩) 0x00000115).aReg[1] = ⟨5, 0xFFFFFFFFFFFFFFFFFFFFFFFFFFFFFFFFFFFFFFFFFFFFFFFFFFFFFFFEFFFFFC26, false⟩ ∧
    (after (s0.putA 0 ⟨5, 0, false⟩) 0x00000115).aReg[1] = ⟨5, 0, false⟩ := by decide +kernel
/-- V40.15. -/
theorem test_gejNeg :
    (after (s0.putJ 0 ⟨20, 72, 2, false⟩) 0x00000116).jReg[1] = ⟨20, 0xFFFFFFFFFFFFFFFFFFFFFFFFFFFFFFFFFFFFFFFFFFFFFFFFFFFFFFFEFFFFFBE7, 2, false⟩ := by decide +kernel
/-- V40.18, V40.19. -/
theorem test_geValid :
    (after { s0 with tflag := true } 0x00000017).tflag = false ∧
    (after (s0.putA 0 ⟨0xFFFFFFFFFFFFFFFFFFFFFFFFFFFFFFFFFFFFFFFFFFFFFFFFFFFFFFFEFFFFFC30,
      0x4218F20AE6C646B363DB68605822FB14264CA8D2587FDD6FBC750D587E76A7EE, false⟩) 0x00000017).tflag = true := by decide +kernel
/-- V40.20, V40.23. -/
theorem test_gejRescale :
    (after ((s0.putJ 0 ⟨5, 9, 1, false⟩).putF 1 2) 0x00100118).jReg[1] = ⟨20, 72, 2, false⟩ ∧
    Raised (after (s0.putF 1 0xFFFFFFFFFFFFFFFFFFFFFFFFFFFFFFFFFFFFFFFFFFFFFFFFFFFFFFFEFFFFFC2F) 0x00100118) 0x03 0x18 := by decide +kernel
/-- V40.24, V40.25. -/
theorem test_geToSt :
    (after (s0.putA 0 ⟨5, 9, false⟩) 0x00000119).tReg[1] = ⟨5, 9⟩ ∧ Raised (after s0 0x00000119) 0x02 0x19 := by decide +kernel
/-- V40.26, V40.27. -/
theorem test_geFromSt :
    (after (s0.putT 0 ⟨5, 9⟩) 0x0000031A).aReg[3] = ⟨5, 9, false⟩ ∧
    (after s0 0x0000031A).aReg[3] = ⟨0, 0, false⟩ := by decide +kernel
/-- V40.28, V40.29. -/
theorem test_stCmov :
    (after { (s0.putT 0 ⟨1, 2⟩).putT 1 ⟨3, 4⟩ with tflag := true } 0x0000101B).tReg[0] = ⟨3, 4⟩ ∧
    (after ((s0.putT 0 ⟨1, 2⟩).putT 1 ⟨3, 4⟩) 0x0000101B).tReg[0] = ⟨1, 2⟩ := by decide +kernel
/-- V40.30, V40.31. -/
theorem test_stCsel :
    (after { (s0.putT 1 ⟨1, 2⟩).putT 2 ⟨3, 4⟩ with tflag := true } 0x0002101C).tReg[0] = ⟨3, 4⟩ ∧
    (after ((s0.putT 1 ⟨1, 2⟩).putT 2 ⟨3, 4⟩) 0x0002101C).tReg[0] = ⟨1, 2⟩ := by decide +kernel

/-! ### Additions (family 41) -/

/-- V41.1. -/
theorem test_gejDblVar :
    (after (s0.putJ 0 ⟨2, 1, 3, false⟩) 0x00200120).jReg[1] = ⟨128, 0xFFFFFFFFFFFFFFFFFFFFFFFFFFFFFFFFFFFFFFFFFFFFFFFFFFFFFFFEFFFFF687, 6, false⟩ ∧
    (after (s0.putJ 0 ⟨2, 1, 3, false⟩) 0x00200120).fRaw[2] = 2 := by decide +kernel
/-- V41.2. -/
theorem test_gejDblVar_identity :
    (after (s0.putF 2 77) 0x00200120).jReg[1] = ⟨0, 0, 0, true⟩ ∧
    (after (s0.putF 2 77) 0x00200120).fRaw[2] = 1 := by decide +kernel
/-- V41.3. -/
theorem test_gejAddVar :
    (after ((s0.putJ 0 ⟨1, 2, 1, false⟩).putJ 1 ⟨12, 40, 2, false⟩) 0x00010221).jReg[2] = ⟨0xFFFFFFFFFFFFFFFFFFFFFFFFFFFFFFFFFFFFFFFFFFFFFFFFFFFFFFFEFFFFFA6F, 8704, 16, false⟩ ∧
    (after ((s0.putJ 0 ⟨1, 2, 1, false⟩).putJ 1 ⟨12, 40, 2, false⟩) 0x00010221).fRaw[0] = 16 := by decide +kernel
/-- V41.8. -/
theorem test_gejAddVar_sameRegister :
    (after (s0.putJ 1 ⟨1, 2, 1, false⟩) 0x00011121).jReg[1] = ⟨0xFFFFFFFFFFFFFFFFFFFFFFFFFFFFFFFFFFFFFFFFFFFFFFFFFFFFFFFEFFFFFC18, 0xFFFFFFFFFFFFFFFFFFFFFFFFFFFFFFFFFFFFFFFFFFFFFFFFFFFFFFFEFFFFFC24, 4, false⟩ ∧
    (after (s0.putJ 1 ⟨1, 2, 1, false⟩) 0x00011121).fRaw[0] = 4 := by decide +kernel
/-- V41.9. -/
theorem test_gejAddGeVar :
    (after ((s0.putJ 0 ⟨4, 16, 2, false⟩).putA 0 ⟨3, 5, false⟩) 0x00000122).jReg[1] = ⟨0xFFFFFFFFFFFFFFFFFFFFFFFFFFFFFFFFFFFFFFFFFFFFFFFFFFFFFFFEFFFFFA6F, 8704, 16, false⟩ := by decide +kernel
/-- V41.13. -/
theorem test_gejAddZinvVar :
    (after (((s0.putJ 0 ⟨1, 2, 1, false⟩).putA 0 ⟨12, 40, false⟩).putF 0
      0x7FFFFFFFFFFFFFFFFFFFFFFFFFFFFFFFFFFFFFFFFFFFFFFFFFFFFFFF7FFFFE18) 0x00000123).jReg[1] = ⟨0xFFFFFFFFFFFFFFFFFFFFFFFFFFFFFFFFFFFFFFFFFFFFFFFFFFFFFFFEFFFFFC28, 17, 2, false⟩ := by decide +kernel
/-- V41.14. -/
theorem test_gejAddZinvVar_identity :
    (after ((s0.putA 0 ⟨12, 40, false⟩).putF 0
      0x7FFFFFFFFFFFFFFFFFFFFFFFFFFFFFFFFFFFFFFFFFFFFFFFFFFFFFFF7FFFFE18) 0x00000123).jReg[1] = ⟨3, 5, 1, false⟩ := by decide +kernel
/-- V41.16. -/
theorem test_gejAddGe_equal :
    (after ((s0.putJ 0 ⟨2, 1, 1, false⟩).putA 0 ⟨2, 1, false⟩) 0x00000124).jReg[1] = ⟨512, 0xFFFFFFFFFFFFFFFFFFFFFFFFFFFFFFFFFFFFFFFFFFFFFFFFFFFFFFFEFFFFCEEF, 4, false⟩ := by decide +kernel
/-- V41.19. -/
theorem test_gejAddGe_infinity :
    Raised (after (s0.putJ 0 ⟨2, 1, 1, false⟩) 0x00000124) 0x02 0x24 := by decide +kernel

/-! ### Scalars (family 42) -/

/-- V42.1, V42.3. -/
theorem test_scAdd :
    (after ((s0.putS 0 0xFFFFFFFFFFFFFFFFFFFFFFFFFFFFFFFEBAAEDCE6AF48A03BBFD25E8CD0364140).putS 1 2) 0x00010230).sRaw[2] = 1 ∧
    (after (s0.putS 0 0xFFFFFFFFFFFFFFFFFFFFFFFFFFFFFFFFFFFFFFFFFFFFFFFFFFFFFFFFFFFFFFFF) 0x00010230).sRaw[2] = 0x14551231950B75FC4402DA1732FC9BEBE := by decide +kernel
/-- V42.4. -/
theorem test_scMul :
    (after ((s0.putS 0 0xFFFFFFFFFFFFFFFFFFFFFFFFFFFFFFFEBAAEDCE6AF48A03BBFD25E8CD0364140).putS 1
      0xFFFFFFFFFFFFFFFFFFFFFFFFFFFFFFFEBAAEDCE6AF48A03BBFD25E8CD0364140) 0x00010231).sRaw[2] = 1 := by decide +kernel
/-- V42.6, V42.7. -/
theorem test_scNeg :
    (after (s0.putS 0 1) 0x00000232).sRaw[2] = 0xFFFFFFFFFFFFFFFFFFFFFFFFFFFFFFFEBAAEDCE6AF48A03BBFD25E8CD0364140 ∧
    (after s0 0x00000232).sRaw[2] = 0 := by decide +kernel
/-- V42.8, V42.12. -/
theorem test_scInv :
    (after (s0.putS 0 2) 0x00000233).sRaw[2] =
      0x7FFFFFFFFFFFFFFFFFFFFFFFFFFFFFFF5D576E7357A4501DDFE92F46681B20A1 ∧
    Raised (after s0 0x00000233) 0x03 0x33 := by decide +kernel
/-- V42.11, V42.13. -/
theorem test_scInvVar :
    (after (s0.putS 0 2) 0x00000234).sRaw[2] =
      0x7FFFFFFFFFFFFFFFFFFFFFFFFFFFFFFF5D576E7357A4501DDFE92F46681B20A1 ∧
    Raised (after (s0.putS 0 0xFFFFFFFFFFFFFFFFFFFFFFFFFFFFFFFEBAAEDCE6AF48A03BBFD25E8CD0364141) 0x00000234) 0x03 0x34 := by decide +kernel
/-- V42.15, V42.16. -/
theorem test_scIsEven :
    (after s0 0x00000035).tflag = true ∧
    (after { s0.putS 0 0xFFFFFFFFFFFFFFFFFFFFFFFFFFFFFFFEBAAEDCE6AF48A03BBFD25E8CD0364142 with tflag := true } 0x00000035).tflag = false := by decide +kernel

/-! ### The wNAF encoder (family 43) -/

/-- V43.1. -/
theorem test_wnaf :
    (after (s0.putS 0 7) 0x20030040).wBuf[0].digit[0] = 0xFFFFFFFF ∧
    (after (s0.putS 0 7) 0x20030040).wBuf[0].digit[3] = 1 ∧ (after (s0.putS 0 7) 0x20030040).retval = 4 := by decide +kernel
/-- V43.4, V43.12. -/
theorem test_wnaf_faults :
    Raised (after (s0.putS 0 240) 0x01040140) 0x06 0x40 ∧ Raised (after (s0.putS 0 7) 0x20010040) 0x05 0x40 := by decide +kernel

/-! ### Contexts (families 44 and 45) -/

/-- V44.25. -/
theorem test_genBuild :
    loadReg (after s0 0x40000050) .ctxStat = 0x00000002 := by decide +kernel
/-- V44.2. -/
theorem test_genBlind_notBuilt :
    Raised (after s0 0x40000051) 0x04 0x51 := by decide +kernel
/-- V44.6. -/
theorem test_genMul :
    (after (builtG.putS 0 1) 0x00000052).jReg[0] =
      ⟨0xC8FDCEFE612B6847605442271E8C616E18CF59E47CB9A10CA9BCA8FAB6414850,
       0xE66DAB878C42E693C4F98B9E5710447895A2E8DBCFF3CB16F39D26229CD42159,
       0xA27C0D5A6CCA0A3FC3A008D4DBDE31AED8C43BAC3B9B19244BF988C5B251C72D, false⟩ := by decide +kernel
/-- V44.5, V44.1. -/
theorem test_genMul_zero :
    (after builtG 0x00000052).jReg[0] = ⟨0, 0, 0, true⟩ ∧ Raised (after s0 0x00000052) 0x04 0x52 := by decide +kernel
/-- V44.26. -/
theorem test_genClone :
    loadReg (after (s0.putG 1 .justBuilt) 0x10000053) .ctxStat = 0x00000003 := by decide +kernel
/-- V44.28. -/
theorem test_genClear :
    loadReg (after ((s0.putG 0 .justBuilt).putG 1 .justBuilt) 0x40000054) .ctxStat = 0x00000001 := by decide +kernel
/-- V44.12. -/
theorem test_genSel :
    (after (builtG.putS 1 0x10) 0x00011055).tReg[0] =
      ⟨0xF6FA4C021B697E93AE34145B481A3AC7462343DC6022040F834DD9D200C69B5D,
       0x5DE5E04B351F9928B84ABAEDD3319E61EA91FC598D6FCAC3401D1AE70C08943E⟩ := by decide +kernel
/-- V44.19. -/
theorem test_genRd :
    (after builtG 0x003FF056).tReg[0] =
      ⟨0x2B7616CAEB6084275A14EB53B67A2EE3B831FB556F63E0B2E01650F6E6900A0D,
       0x915E7DBC62F8E3498FFDF22DD3604D77BB701137B6C3654384CCE993C4613CA4⟩ := by decide +kernel
/-- V45.22. -/
theorem test_mulBuild :
    loadReg (after s0 0x00000060) .ctxStat = 0x00010000 := by decide +kernel
/-- V45.23. -/
theorem test_mulClone :
    loadReg (after builtM 0x40000061) .ctxStat = 0x00030000 := by decide +kernel
/-- V45.24. -/
theorem test_mulClear :
    loadReg (after (builtM.putM 1 .justBuilt) 0x00000062) .ctxStat = 0x00020000 := by decide +kernel
/-- V45.7. -/
theorem test_pregLookup :
    (after builtM 0x0FFFB163).aReg[1] =
      ⟨0x2F8BDE4D1A07209355B4A7250A5C5128E88B84BDDC619AB7CBA8D569B240EFE4,
       0x2753DDD9C91A1C292B24562259363BD90877D8E454F297BF235782C459539959, false⟩ := by decide +kernel
/-- V45.2, V45.19. -/
theorem test_pregLookup_faults :
    Raised (after s0 0x00004063) 0x04 0x63 ∧ Raised (after builtM 0x08000163) 0x08 0x63 := by decide +kernel
/-- V45.10. -/
theorem test_dualMul :
    (after (((builtM.putA 0 twoG).putS 1 3).putS 2 5) 0x00210164).jReg[1] =
      ⟨0xA7A2A8AF0E07BAD36DF21C8B2B684B570969AFA51F234839430BFC0149E5CB0E,
       0xBED11EF8227189199B4E14845BA620221199E49F655C7FD6E366B5A6C5BB100A,
       0x2F926277A4A831EF356F6D10D50A1B5565953D8E56F8F92C9CA35B54521776BD, false⟩ := by decide +kernel
/-- V45.14. -/
theorem test_dualMul_identity :
    (after (((builtM.putA 0 twoG).putS 1 1).putS 2
      0xFFFFFFFFFFFFFFFFFFFFFFFFFFFFFFFEBAAEDCE6AF48A03BBFD25E8CD036413F) 0x00210164).jReg[1] = ⟨0, 0, 0, true⟩ := by decide +kernel

/-- The stand-in DRBG of V44.20: outputs `0`, `p`, `5`, `n`, `0`, `7`. -/
def standIn (t : Nat) : Nat := [0, Config.p, 5, Config.n, 0, 7].getD t 0

/-- V44.20: six outputs drawn, `blind = 7`, and the `x` of the new `initial`. -/
theorem test_genBlind :
    ∃ t, blindWith standIn 8 0 { builtG with seed := 0x1234 } = .next t ∧ t.gctx[0].blind.val = 7 ∧ t.seed = 0 ∧
      t.leakDraws = some 6 ∧
      t.gctx[0].initial.x.val = 0x1B55E56CDC52CE2926BC4F15DB844CB5597467003901C9FFFD884E6B38DA02FA :=
  ⟨_, rfl, by decide +kernel, by decide +kernel, by decide +kernel, by decide +kernel⟩

/-- V44.22: `RETRY_CAP = 2`. -/
theorem test_genBlind_fault :
    ∃ t, blindWith standIn 2 0 { builtG with seed := 0x1234 } = .next t ∧ Raised t 0x07 0x51 ∧ t.seed = 0x1234 ∧
      t.leakDraws = some 2 :=
  ⟨_, rfl, by decide +kernel, by decide +kernel, by decide +kernel⟩

/-! ### Host accesses, the fault state and reset (families 20, 30 and 70) -/

/-- V20.1. -/
theorem test_host_word_order :
    rd (wr s0 0x0100 5) 0x0100 = .data 5 ∧ rd (wr s0 0x0100 5) 0x0104 = .data 0 := by decide +kernel
/-- V20.2. -/
theorem test_host_top_word :
    (wr s0 0x011C 0x80000000).sRaw[0] = 0x8000000000000000000000000000000000000000000000000000000000000000 := by decide +kernel
/-- V20.3, V20.4. -/
theorem test_host_inf_word :
    rd s0 0x0440 = .data 1 ∧ rd (wr s0 0x0440 0xFFFFFFFE) 0x0440 = .data 0 := by decide +kernel
/-- V20.5. -/
theorem test_host_write_only :
    rd (wr s0 0x0020 0x1234) 0x0020 = .data 0 ∧ (wr s0 0x0020 0x1234).seed = 0x1234 := by decide +kernel
/-- V20.6. -/
theorem test_host_read_only :
    (wr s0 0x0004 1).response = .accepted ∧ (wr s0 0x0004 1).fault = false ∧
    (wr s0 0x1000 1).wBuf[0].digit[0] = 0 := by decide +kernel
/-- V20.7, V20.8. -/
theorem test_host_refused :
    rd s0 0x0444 = .busError ∧ rd s0 0x1FFC = .busError ∧ rd s0 0x0102 = .busError ∧
    (access s0 (.write 16 0x0100 0)).response = .busError := by decide +kernel
/-- V30.11, V20.12. -/
theorem test_fault_state :
    (after (after s0 0x00000233) 0).faultInfo = ⟨0x03, 0x33⟩ ∧ (wr (after s0 0x00000233) 0x0120 9).sRaw[1] = 0 := by decide +kernel
/-- V70.2, V70.3. -/
theorem test_reset :
    (wr (after s0 0x00000233) 0x0018 1).fault = false ∧ (wr (after s0 0x00000233) 0x0018 0xFFFFFFFE).fault = true ∧
    (access (after s0 0x00000233) .hardReset).faultInfo = ⟨0, 0⟩ := by decide +kernel
/-- V30.1. -/
theorem test_illegal_word :
    Raised (after s0 0) 0x01 0x00 := by decide +kernel
/-- V20.9 and R374. -/
theorem test_static :
    rd s0 0x001C = .data 0 ∧ rd (State.resetOf true) 0x001C = .data 1 ∧
    rd (State.resetOf true) 0x000C = .data 0x00030003 ∧ rd (after (State.resetOf true) 0x40000054) 0x000C = .data 0x00030001 ∧
    rd (wr (after (State.resetOf true) 0x40000054) 0x0018 1) 0x000C = .data 0x00030003 := by decide +kernel

/-! ### Witnesses: states and operands that meet the hypotheses of the statements -/

/-- The block in its fault state: `SC_INV` of 0. -/
def faulted : State := after s0 0x00000233

/-- `s` with one access pending. -/
def pending (s : State) (a : HostAccess) : State := { s with host := [a] }

/-- A `CMD` write that clears no reset bit is no reset. -/
theorem not_reset_of_cmd {s : State} {w : Word} {rest : List HostAccess} (h : s.host = .write 32 0 w :: rest) :
    ¬ ResetComesNext s := by
  rintro ⟨rest', h' | ⟨w', -, h'⟩⟩ <;> rw [h] at h' <;> simp at h'

/-- Slot `G0` and slot `G1` built with different blinding values. -/
def twoBlinds : State := builtG.putG 1 { GenCtx.justBuilt with blind := scOfNat 2 }

/-- The ends of the ranges of `BATCH_NORM`. -/
theorem witness_DecodeInvertsEncode :
    (Instr.batchNorm 0 0 8).WellFormed ∧ (Instr.batchNorm 7 7 1).WellFormed ∧ (Instr.scAdd 7 7 7).WellFormed := by
  decide

/-- A word at the ends of its operands' ranges. -/
theorem witness_EncodeInvertsDecode : decode 0x00080014 = .ok (.batchNorm 0 0 8) := rfl

/-- One illegal word for each clause of R115, at the first value past the limit. -/
theorem witness_IllegalWordsRaiseIllegal :
    (pending s0 (cmdAccess 0)).fault = false ∧
    IllegalWord 0x00000000 ∧ IllegalWord 0x00010010 ∧ IllegalWord 0x00000830 ∧ IllegalWord 0x80000050 ∧
    IllegalWord 0x00000014 ∧ IllegalWord 0x00090014 ∧ IllegalWord 0x00050414 ∧ IllegalWord 0x00055014 := by
  refine ⟨rfl, ?_, ?_, ?_, ?_, ?_, ?_, ?_, ?_⟩ <;> unfold IllegalWord BadFields <;> decide

theorem witness_StepRunsTheDecodedCommand :
    (pending faulted (cmdAccess 0x00010230)).fault = true ∧ (pending s0 (cmdAccess 0x00010230)).fault = false ∧
    decode 0x00010230 = .ok (.scAdd 2 0 1) := by decide +kernel

theorem witness_EveryStepAnswersNext : s0.host = [] := rfl

/-- Both resets from the fault state, and a `CTRL` word whose every bit but bit 0 is set. -/
theorem witness_ResetWorksInEveryState :
    (ResetComesNext (pending faulted .hardReset) ∧ ∃ t, step (pending faulted .hardReset) = .next t) ∧
    (ResetComesNext (pending faulted (.write 32 0x18 1)) ∧ ∃ t, step (pending faulted (.write 32 0x18 1)) = .next t) ∧
    (0xFFFFFFFE : Word).getLsbD 0 = false :=
  ⟨⟨⟨[], .inl rfl⟩, _, rfl⟩, ⟨⟨[], .inr ⟨1, rfl, rfl⟩⟩, _, rfl⟩, rfl⟩

/-- A command in the fault state, and the reset that leaves it. -/
theorem witness_FaultStateIsSticky :
    (∃ t, (pending faulted (cmdAccess 0)).fault = true ∧ step (pending faulted (cmdAccess 0)) = .next t ∧
      ¬ ResetComesNext (pending faulted (cmdAccess 0))) ∧
    ∃ t, (pending faulted .hardReset).fault = true ∧ step (pending faulted .hardReset) = .next t ∧ t.fault = false :=
  ⟨⟨_, by decide +kernel, rfl, not_reset_of_cmd rfl⟩, _, by decide +kernel, rfl, rfl⟩

theorem witness_FaultEnteredOnlyByCommands :
    ∃ t, (pending s0 (cmdAccess 0x00000233)).fault = false ∧ step (pending s0 (cmdAccess 0x00000233)) = .next t ∧
      t.fault = true := ⟨_, rfl, rfl, by decide +kernel⟩

theorem witness_FaultEntryIsPrecise :
    (∃ t, exec (.scInv 2 0) s0 = .next t ∧ t.leakFault = some .zero) ∧
    ∃ t, exec (.scAdd 2 0 1) s0 = .next t ∧ t.leakFault = none :=
  ⟨⟨_, rfl, by decide +kernel⟩, _, rfl, by decide +kernel⟩

theorem witness_FaultsByCommand :
    ∃ t, (Instr.wnaf 0 0 1 256).WellFormed ∧ s0.fault = false ∧ exec (.wnaf 0 0 1 256) s0 = .next t ∧
      t.fault = true := ⟨_, by decide, rfl, rfl, by decide +kernel⟩

theorem witness_UnbuiltSlotFaults :
    s0.gctx[1].built = false ∧ s0.mctx[1].built = false ∧ (∃ t, exec (.genClear 1) s0 = .next t) ∧
    ∃ t, exec (.mulClear 1) s0 = .next t := ⟨rfl, rfl, ⟨_, rfl⟩, _, rfl⟩

theorem witness_OnlyNamedDestinationsAreWritten :
    (∃ t, exec (.gejDblVar 1 0 2) s0 = .next t ∧ Place.f 1 ∉ destinations (.gejDblVar 1 0 2)) ∧
    ∃ t, exec (.scInv 2 0) s0 = .next t ∧ t.leakFault ≠ none :=
  ⟨⟨_, rfl, by decide⟩, _, rfl, by decide +kernel⟩

/-- Two states that differ in a register the command does not read, and in the raw bits of one it does. -/
theorem witness_ResultsDependOnNamedSources :
    s0 ≠ (s0.putS 7 9).putS 1 (BitVec.ofNat 256 Config.n) ∧
    (∀ d ∈ sources (.scAdd 2 0 1), SameOperand s0 ((s0.putS 7 9).putS 1 (BitVec.ofNat 256 Config.n)) d) ∧
    ∃ t t', exec (.scAdd 2 0 1) s0 = .next t ∧
      exec (.scAdd 2 0 1) ((s0.putS 7 9).putS 1 (BitVec.ofNat 256 Config.n)) = .next t' ∧ t.leakFault = none := by
  refine ⟨fun h => absurd (congrArg (fun s => s.sRaw[7]) h) (by decide +kernel), ?_, _, _, rfl, rfl, by decide +kernel⟩
  intro d hd
  simp only [sources, List.mem_cons, List.not_mem_nil, or_false] at hd
  rcases hd with rfl | rfl <;> (unfold SameOperand; decide +kernel)

theorem witness_ResultsAreCanonical :
    ∃ t, exec (.genMul 0 0 0) builtG = .next t ∧ t.leakFault = none ∧ Place.j 0 ∈ destinations (.genMul 0 0 0) :=
  ⟨_, rfl, by decide +kernel, by decide⟩

/-- A faulted state with a slot built, about to be reset. -/
def faultedBuilt : State := pending { builtG with fault := true, faultInfo := ⟨8, 0x63⟩ } .hardReset

theorem witness_StepKeepsInvariant : State.Inv faultedBuilt ∧ ∃ t, step faultedBuilt = .next t := by
  refine ⟨⟨fun h => ?_, fun _ => ?_, fun b => ?_, ?_, fun c => ?_, fun c => .inl ?_⟩, _, rfl⟩
  · exact absurd h (by decide)
  · decide
  · fin_cases b <;> decide
  · decide
  · fin_cases c
    · exact .inr rfl
    · exact .inl rfl
  · fin_cases c <;> rfl

/-- A build, a clear, a clone over a built slot of other blinding, and the same for a multiply slot. -/
theorem witness_ContextsChangeOnlyByTheirCommands :
    (∃ t, step (pending s0 (cmdAccess 0x00000050)) = .next t ∧ ¬ ResetComesNext (pending s0 (cmdAccess 0x00000050)) ∧
      s0.gctx[0] ≠ t.gctx[0]) ∧
    (∃ t, step (pending builtM (cmdAccess 0x00000062)) = .next t ∧
      ¬ ResetComesNext (pending builtM (cmdAccess 0x00000062)) ∧ builtM.mctx[0] ≠ t.mctx[0] ∧
      builtM.mctx[0].preG = some mulTable ∧ t.mctx[0].preG ≠ some mulTable) ∧
    (∃ t, step (pending builtG (cmdAccess 0x00000054)) = .next t ∧
      ¬ ResetComesNext (pending builtG (cmdAccess 0x00000054)) ∧ builtG.gctx[0].prec = some genTable ∧
      t.gctx[0].prec ≠ some genTable) ∧
    ∃ t, step (pending twoBlinds (cmdAccess 0x10000053)) = .next t ∧
      ¬ ResetComesNext (pending twoBlinds (cmdAccess 0x10000053)) ∧ twoBlinds.gctx[0].built = true ∧
      t.gctx[0].prec = twoBlinds.gctx[0].prec ∧ twoBlinds.gctx[0] ≠ t.gctx[0] := by
  refine ⟨⟨_, rfl, not_reset_of_cmd rfl, fun h => ?_⟩, ⟨_, rfl, not_reset_of_cmd rfl, fun h => ?_, rfl, fun h => ?_⟩,
    ⟨_, rfl, not_reset_of_cmd rfl, rfl, fun h => ?_⟩, _, rfl, not_reset_of_cmd rfl, rfl, rfl, fun h => ?_⟩
  · exact absurd (congrArg GenCtx.built h) (by decide)
  · exact absurd (congrArg MulCtx.built h) (by decide)
  · exact absurd (congrArg Option.isSome h) (by decide)
  · exact absurd (congrArg Option.isSome h) (by decide)
  · exact absurd (congrArg GenCtx.blind h) (by decide)

/-- Two states with one slot built in both, with different blinding. -/
theorem witness_HostReadsRevealOnlyBuiltBits :
    let g := builtG.gctx.set 0 { GenCtx.justBuilt with blind := scOfNat 5 }
    builtG.gctx ≠ g ∧ (∀ c : GSlot, builtG.gctx[c].built = g[c].built) ∧
    (∃ t, step { builtG with host := [.read 32 0x0C] } = .next t) ∧
    ∃ t, step { builtG with gctx := g, host := [.read 32 0x0C] } = .next t := by
  refine ⟨fun h => absurd (congrArg (fun v : Vector GenCtx Config.ngctx => v[0].blind) h) (by decide), fun c => ?_, ⟨_, rfl⟩, _, rfl⟩
  fin_cases c <;> rfl

/-- The first and last offset of each reserved range of R81, and the mapped words beside them. -/
theorem witness_UnmappedAccessesAreRefused :
    (∀ o ∈ [0x40, 0xFC, 0x280, 0x3FC, 0x444, 0x47C, 0x7C4, 0x7FC, 0x864, 0x87C, 0xBE4, 0xBFC, 0xD00, 0xFFC, 0x1808,
      0x1FFC], Reserved o) ∧
    (∀ o ∈ [0x00, 0x3C, 0x100, 0x27C, 0x400, 0x440, 0x480, 0x7C0, 0x800, 0x860, 0x880, 0xBE0, 0xC00, 0xCFC, 0x1000,
      0x1804], o % 4 = 0 ∧ ¬ Reserved o) ∧ (16 : Nat) ≠ 32 ∧ (0x102 : BitVec 13).toNat % 4 ≠ 0 := by
  unfold Reserved; decide

theorem witness_HostWritesStoreOneWord :
    s0.fault = false ∧ HostReg.tflag.kind = .readWrite ∧ HostReg.status.kind = .readOnly ∧
    HostReg.cmd.kind = .writeOnly := by decide

theorem witness_ScalarInverses :
    (s0.putS 0 (BitVec.ofNat 256 Config.n)).sVal 0 = 0 ∧ (s0.putS 0 1).sVal 0 ≠ 0 := by decide +kernel

theorem witness_ConversionsWithInversion :
    HasZeroZ (s0.putJ 0 ⟨1, 1, BitVec.ofNat 256 Config.p, false⟩).jReg[0] ∧ ¬ HasZeroZ s0.jReg[0] ∧
    ¬ HasZeroZ (s0.putJ 0 ⟨20, 72, 2, false⟩).jReg[0] := by
  unfold HasZeroZ; decide +kernel

/-- A batch of all eight with a bad one in its last place, a batch of one in the last place, and a good batch. -/
theorem witness_BatchNormalisation :
    (∃ t : JSel, (0 : JSel) ≤ t ∧ t.val < (0 : JSel).val + (8 : Fin 16).val ∧
      HasZeroZ (s0.putJ 7 ⟨1, 1, 0, false⟩).jReg[t]) ∧
    (∀ t : JSel, (7 : JSel) ≤ t → t.val < (7 : JSel).val + (1 : Fin 16).val →
      ¬ HasZeroZ ((s0.putJ 6 ⟨1, 1, 0, false⟩).putJ 7 ⟨20, 72, 2, false⟩).jReg[t]) ∧
    (7 : ASel).val + (1 : Fin 16).val ≤ 8 ∧ (0 : ASel).val + (8 : Fin 16).val ≤ 8 := by
  unfold HasZeroZ; decide +kernel

theorem witness_PointRescale :
    (s0.putF 0 (BitVec.ofNat 256 Config.p)).fVal 0 = 0 ∧ (s0.putF 0 2).fVal 0 ≠ 0 ∧
    IsAffineForm ⟨20, 72, 2, false⟩ ⟨5, 9, false⟩ ∧ IsAffineForm jacobianInf affineInf := by
  refine ⟨by decide +kernel, by decide +kernel, ⟨5, 9, by decide +kernel⟩, rfl⟩

theorem witness_StorageForm : s0.aReg[0].inf = true ∧ (s0.putA 0 ⟨5, 9, false⟩).aReg[0].inf = false := by decide

theorem witness_ConversionRoundTrip :
    ((s0.putJ 0 ⟨20, 72, 2, false⟩).putF 0
      0x7FFFFFFFFFFFFFFFFFFFFFFFFFFFFFFFFFFFFFFFFFFFFFFFFFFFFFFF7FFFFE18).fVal 0 *
      coord ((s0.putJ 0 ⟨20, 72, 2, false⟩).putF 0
      0x7FFFFFFFFFFFFFFFFFFFFFFFFFFFFFFFFFFFFFFFFFFFFFFFFFFFFFFF7FFFFE18).jReg[0].z % Config.p = 1 := by
  decide +kernel

theorem witness_UnifiedAddition :
    (s0.putA 0 ⟨2, 1, true⟩).aReg[0].inf = true ∧ (s0.putA 0 ⟨2, 1, false⟩).aReg[0].inf = false := by decide

theorem witness_RatioTakesZToZ :
    (∃ t, exec (.gejDblVar 1 0 2) (s0.putJ 0 ⟨2, 1, 3, false⟩) = .next t ∧
      (s0.putJ 0 ⟨2, 1, 3, false⟩).jReg[0].inf = false) ∧
    ∃ t, exec (.gejAddVar 2 0 1 0) ((s0.putJ 0 ⟨1, 2, 1, false⟩).putJ 1 ⟨12, 40, 2, false⟩) = .next t ∧
      t.jReg[2].inf = false :=
  ⟨⟨_, rfl, by decide⟩, _, rfl, by decide +kernel⟩

theorem witness_AddingItselfAndItsNegative :
    ∃ t u, (s0.putJ 0 ⟨1, 2, 1, false⟩).jReg[0].inf = false ∧ coord (s0.putJ 0 ⟨1, 2, 1, false⟩).jReg[0].y ≠ 0 ∧
      coord (s0.putJ 0 ⟨1, 2, 1, false⟩).jReg[0].z ≠ 0 ∧
      exec (.gejNeg 1 0) (s0.putJ 0 ⟨1, 2, 1, false⟩) = .next t ∧ exec (.gejAddVar 0 0 1 0) t = .next u ∧
      ∃ v, exec (.gejAddVar 0 0 0 0) (s0.putJ 0 ⟨1, 2, 1, false⟩) = .next v :=
  ⟨_, _, by decide, by decide +kernel, by decide +kernel, rfl, rfl, _, rfl⟩

/-! #### Points -/

/-- The base point is a nonsingular point of the curve. -/
theorem basePoint_nonsingular : curve.Nonsingular (basePoint.x.val : ZMod Config.p) (basePoint.y.val : ZMod Config.p) := by
  rw [WeierstrassCurve.Affine.nonsingular_iff, WeierstrassCurve.Affine.equation_iff]
  have he : (basePoint.y.val : ZMod Config.p) ^ 2 = (basePoint.x.val : ZMod Config.p) ^ 3 + (Config.b : ZMod Config.p) := by
    exact_mod_cast (ZMod.natCast_eq_natCast_iff _ _ _).mpr
      (by decide +kernel : (basePoint.y.val ^ 2) % Config.p = (basePoint.x.val ^ 3 + Config.b) % Config.p)
  have hy : ((2 * basePoint.y.val : ℕ) : ZMod Config.p) ≠ 0 := by
    rw [Ne, ZMod.natCast_eq_zero_iff]; decide +kernel
  refine ⟨by simpa [curve] using he, .inr fun h => hy ?_⟩
  simp only [curve, zero_mul, sub_zero] at h
  push_cast
  linear_combination h

/-- `G` as a point of the curve. -/
def pointG : Point := .some _ _ basePoint_nonsingular

theorem basePoint_standsFor : basePoint.StandsFor pointG := .inr ⟨rfl, _, _, basePoint_nonsingular, rfl, rfl, rfl⟩

/-- `G` in `A[0]` and in `J[0]`. -/
def holdsG : State :=
  (s0.putA 0 (geToReg basePoint)).putJ 0 (gejToReg ⟨feOfNat Config.gx, feOfNat Config.gy, feOfNat 1, false⟩)

theorem holdsG_readA : holdsG.readA 0 = basePoint := by decide +kernel
theorem holdsG_readJ : holdsG.readJ 0 = ⟨feOfNat Config.gx, feOfNat Config.gy, feOfNat 1, false⟩ := by decide +kernel

/-- A finite affine value with `z = 1` stands for the same point as a Jacobian value. -/
theorem standsFor_one {x y : Fe} {P : Point} (h : Ge.StandsFor ⟨x, y, false⟩ P) :
    Gej.StandsFor ⟨x, y, feOfNat 1, false⟩ P := by
  obtain ⟨h, -⟩ | ⟨-, x', y', hn, hp, hx, hy⟩ := h
  · cases h
  · exact .inr ⟨rfl, (by decide : (feOfNat 1).val ≠ 0), x', y', hn, hp, by simpa [feOfNat] using hx, by simpa [feOfNat] using hy⟩

theorem holdsG_standsFor : (holdsG.readJ 0).StandsFor pointG :=
  holdsG_readJ ▸ standsFor_one basePoint_standsFor

/-- `P = Q = G`, and the identity on either side. -/
theorem witness_JacobianGroupLaw :
    Nat.Prime Config.p ∧ (holdsG.readJ 0).StandsFor pointG ∧ (holdsG.readJ 1).StandsFor .zero :=
  ⟨p_prime, holdsG_standsFor, .inl ⟨by decide +kernel, rfl⟩⟩

/-- The second operand `G`, the identity, and `G` read with the inverse 1 of its `z`. -/
theorem witness_MixedGroupLaw :
    Nat.Prime Config.p ∧ (holdsG.readJ 0).StandsFor pointG ∧ (holdsG.readA 0).StandsFor pointG ∧
    (holdsG.readA 0).inf = false ∧ (holdsG.readA 1).StandsFor .zero ∧ ((holdsG.putF 0 1).readF 0).val ≠ 0 ∧
    Ge.StandsFor ⟨feOfNat (((holdsG.putF 0 1).readA 0).x.val * ((holdsG.putF 0 1).readF 0).val ^ 2),
      feOfNat (((holdsG.putF 0 1).readA 0).y.val * ((holdsG.putF 0 1).readF 0).val ^ 3), false⟩ pointG := by
  refine ⟨p_prime, holdsG_standsFor, holdsG_readA ▸ basePoint_standsFor, by decide +kernel,
    .inl ⟨by decide +kernel, rfl⟩, by decide +kernel, ?_⟩
  have h : (⟨feOfNat (((holdsG.putF 0 1).readA 0).x.val * ((holdsG.putF 0 1).readF 0).val ^ 2),
      feOfNat (((holdsG.putF 0 1).readA 0).y.val * ((holdsG.putF 0 1).readF 0).val ^ 3), false⟩ : Ge) = basePoint := by
    decide +kernel
  exact h ▸ basePoint_standsFor

/-! #### Digits and contexts -/

/-- The two clauses of R335 on both sides of each limit. -/
theorem witness_WnafParameters :
    ((1 : Fin 32).val < 2 ∧ (257 : Fin 512).val > 256) ∧
    ((2 : Fin 32).val ≥ 2 ∧ (256 : Fin 512).val ≤ 256 ∧ ∃ t, exec (.wnaf 0 0 2 256) s0 = .next t) :=
  ⟨by decide, by decide, by decide, _, rfl⟩

/-- `len = 256`; the largest magnitude that is certain to fit 8 digits; the smallest that is certain not to; and
`len = 0` for the scalar 0 and for the scalar 1. -/
theorem witness_WnafEncoding :
    2 ≤ (2 : Fin 32).val ∧ (256 : Fin 512).val = 256 ∧
    2 * wnafMagnitude ((s0.putS 0 127).sVal 0) < 2 ^ (8 : Fin 512).val ∧
    2 ^ (8 : Fin 512).val ≤ wnafMagnitude ((s0.putS 0 256).sVal 0) ∧
    2 * wnafMagnitude (s0.sVal 0) < 2 ^ (0 : Fin 512).val ∧
    2 ^ (0 : Fin 512).val ≤ wnafMagnitude ((s0.putS 0 (BitVec.ofNat 256 (Config.n - 1))).sVal 0) := by
  decide +kernel

/-- An unbuilt slot, and the last window of the largest scalar. -/
theorem witness_TableAccessors :
    s0.gctx[0].prec = none ∧ builtG.gctx[0].prec = some genTable ∧
    (15 : Fin 16).val = (builtG.putS 0 (BitVec.ofNat 256 (Config.n - 1))).sRaw[0].toNat % Config.n / 16 ^ 63 % 16 ∧
    (∃ t, exec (.genSel 0 0 63 0) (builtG.putS 0 (BitVec.ofNat 256 (Config.n - 1))) = .next t) ∧
    ∃ t, exec (.genRd 0 15 63 0) (builtG.putS 0 (BitVec.ofNat 256 (Config.n - 1))) = .next t :=
  ⟨rfl, rfl, by decide +kernel, ⟨_, rfl⟩, _, rfl⟩

theorem witness_GenMulAddsOneEntryPerWindow :
    builtG.gctx[1].prec = none ∧ builtG.gctx[0].prec = some genTable ∧ ∃ t, exec (.genMul 0 0 0) builtG = .next t :=
  ⟨rfl, rfl, _, rfl⟩

/-- The context a build leaves is valid. -/
theorem justBuilt_valid [Fact (Nat.Prime Config.p)] : GenCtx.Valid .justBuilt :=
  ⟨rfl, rfl, fun G h => by
    have hb : GenCtx.justBuilt.blind.val = 1 := by decide
    have hi : GenCtx.justBuilt.initial = ⟨feOfNat Config.gx, feOfNat Config.gy, feOfNat 1, false⟩ := by decide +kernel
    rw [hb, one_smul, hi]; exact standsFor_one h⟩

theorem witness_GenMulIsScalarMultiple :
    ∃ _ : Fact (Nat.Prime Config.p), basePoint.StandsFor pointG ∧ builtG.gctx[0].Valid :=
  ⟨⟨p_prime⟩, basePoint_standsFor, haveI := Fact.mk p_prime; justBuilt_valid⟩

/-- A slot built, and the next access builds the other. -/
theorem witness_BuiltContextsStayValid :
    ∃ _ : Fact (Nat.Prime Config.p), (∀ c : GSlot, builtG.gctx[c].built = true → builtG.gctx[c].Valid) ∧
      (∃ t, step (pending builtG (cmdAccess 0x40000050)) = .next t ∧ t.gctx[1].built = true) := by
  refine ⟨⟨p_prime⟩, fun c hc => ?_, _, rfl, rfl⟩
  have := Fact.mk p_prime
  fin_cases c
  · exact justBuilt_valid
  · cases hc

/-- The stand-in DRBG of V44.20 to V44.22: accepted outputs 2 and 5, with a cap of exactly three tries; a rejection by
the first loop, and by the second. -/
theorem witness_BlindingForEveryDrbg :
    builtG.gctx[0].prec = some genTable ∧
    (Accepts standIn Config.p 3 0 2 ∧ Accepts standIn Config.n 3 (2 + 1) 5) ∧ Rejects standIn Config.p 2 0 ∧
    ∃ t1, Accepts (fun t => if t = 0 then 1 else 0) Config.p 2 0 t1 ∧
      Rejects (fun t => if t = 0 then 1 else 0) Config.n 2 (t1 + 1) := by
  refine ⟨rfl, ⟨⟨by decide, by decide, by decide, by decide +kernel, ?_⟩, by decide, by decide, by decide,
    by decide +kernel, ?_⟩, ?_, 0, ⟨by decide, by decide, by decide, by decide +kernel, ?_⟩, ?_⟩
  · intro u h1 h2; interval_cases u <;> decide +kernel
  · intro u h1 h2; interval_cases u <;> decide +kernel
  · intro u h1 h2; interval_cases u <;> decide +kernel
  · intro u h1 h2; omega
  · intro u h1 h2; exact .inl (if_neg (by omega))

/-- A built slot, and two executions from different states that agree in their fault and their draws. -/
theorem witness_BlindingCommitsOrFaults :
    builtG.gctx[0].prec = some genTable ∧ ∃ t t', exec (.genBlind 0) s0 = .next t ∧ exec (.genBlind 0) holdsG = .next t' ∧
      t.leakFault = t'.leakFault ∧ t.leakDraws = t'.leakDraws := ⟨rfl, _, _, rfl, rfl, rfl, rfl⟩

/-- The ends of the table and of the immediate: 1, -1, 32767, -32767, and the even -32768 and 0. -/
theorem witness_SignedOddLookup :
    builtM.mctx[0].preG = some mulTable ∧ (BitVec.ofInt 16 (-32768)).toInt % 2 = 0 ∧ (0 : BitVec 16).toInt % 2 = 0 ∧
    (∀ d ∈ [(1 : Int), -1], (BitVec.ofInt 16 d).toInt % 2 = 1 ∧
      2 * (0 : Fin 16384).val + 1 = (BitVec.ofInt 16 d).toInt.natAbs) ∧
    ∀ d ∈ [(32767 : Int), -32767], (BitVec.ofInt 16 d).toInt % 2 = 1 ∧
      2 * (16383 : Fin 16384).val + 1 = (BitVec.ofInt 16 d).toInt.natAbs :=
  ⟨rfl, by decide, by decide, by decide, by decide⟩

/-- `A` off the curve with `y = 0`, so that `3·A` has `z = 0`, with `na = 1` and with `na = 0`; and the identity. -/
theorem witness_DualMulPass :
    builtM.mctx[0].preG = some mulTable ∧
    (((builtM.putA 0 ⟨5, 0, false⟩).putS 1 1).readA 0).inf = false ∧
    (((builtM.putA 0 ⟨5, 0, false⟩).putS 1 1).readS 1).val ≠ 0 ∧
    (∃ i < 8, (oddMultiple (((builtM.putA 0 ⟨5, 0, false⟩).putS 1 1).readA 0) i).inf = false ∧
      (oddMultiple (((builtM.putA 0 ⟨5, 0, false⟩).putS 1 1).readA 0) i).z.val = 0) ∧
    ((builtM.putA 0 ⟨5, 0, false⟩).readS 1).val = 0 ∧ (builtM.readA 0).inf = true := by
  refine ⟨rfl, by decide +kernel, by decide +kernel, ⟨1, by decide, by decide +kernel, by decide +kernel⟩,
    by decide +kernel, by decide +kernel⟩

theorem witness_LookupIsOddMultipleOfG :
    Nat.Prime Config.p ∧ basePoint.StandsFor pointG ∧ builtM.mctx[0].preG = some mulTable ∧
    (BitVec.ofInt 16 (-32767)).toInt % 2 = 1 := ⟨p_prime, basePoint_standsFor, rfl, by decide⟩

/-- `A = G`, and `A` the identity. -/
theorem witness_DualMulIsCombination :
    Nat.Prime Config.p ∧ basePoint.StandsFor pointG ∧ builtM.mctx[0].preG = some mulTable ∧
    ((builtM.putA 0 (geToReg basePoint)).readA 0).StandsFor pointG ∧ (builtM.readA 0).StandsFor .zero := by
  refine ⟨p_prime, basePoint_standsFor, rfl, ?_, .inl ⟨by decide +kernel, rfl⟩⟩
  have h : (builtM.putA 0 (geToReg basePoint)).readA 0 = basePoint := by decide +kernel
  exact h ▸ basePoint_standsFor

/-- Two executions of a constant-time command on different operands, both without a fault, and of `GEN_BLIND`. -/
theorem witness_ConstantTimeCommands :
    (∃ t t', exec (.scInv 2 0) (s0.putS 0 1) = .next t ∧ exec (.scInv 2 0) (s0.putS 0 2) = .next t' ∧
      t.leakFault = none ∧ t'.leakFault = none) ∧
    ∃ t t', exec (.genBlind 0) s0 = .next t ∧ exec (.genBlind 0) holdsG = .next t' ∧ t.leakFault = t'.leakFault ∧
      t.leakDraws = t'.leakDraws :=
  ⟨⟨_, _, rfl, rfl, by decide +kernel, by decide +kernel⟩, _, _, rfl, rfl, rfl, rfl⟩

/-- A static block with a slot cleared, reset either way; builds of the last slots; and a command of a dynamic block. -/
theorem witness_StaticConfiguration :
    (∀ a ∈ [HostAccess.hardReset, .write 32 0x18 1], ∃ t,
      (pending (after (State.resetOf true) 0x40000054) a).staticPrecomp = true ∧
      ResetComesNext (pending (after (State.resetOf true) 0x40000054) a) ∧
      step (pending (after (State.resetOf true) 0x40000054) a) = .next t) ∧
    (s0.gctx[1].built = false ∧ ∃ v, exec (.genBuild 1) s0 = .next v) ∧
    (s0.mctx[1].built = false ∧ ∃ v, exec (.mulBuild 1) s0 = .next v) ∧
    s0.staticPrecomp = false ∧ ∃ t, exec (.genMul 0 0 0) builtG = .next t := by
  refine ⟨fun a ha => ?_, ⟨rfl, _, rfl⟩, ⟨rfl, _, rfl⟩, rfl, _, rfl⟩
  simp only [List.mem_cons, List.not_mem_nil, or_false] at ha
  rcases ha with rfl | rfl
  · exact ⟨_, rfl, ⟨[], .inl rfl⟩, rfl⟩
  · exact ⟨_, rfl, ⟨[], .inr ⟨1, rfl, rfl⟩⟩, rfl⟩

end Sys2Proof.Tests
end

section
/-! PROOFS. `STATIC_PRECOMP` is fixed, readable, restored by every reset, and seen by no command (00_scope.md R8,
70_reset_and_hazards.md R374). -/

namespace Sys2Proof.Machine

/-! ### A read and a write of one register word (20_memory.md R83) -/

/-- What a read returns does not depend on the stream or on the last answer. -/
theorem loadReg_host_response (s : State) (host : List HostAccess) (response : Response) (r : HostReg) :
    loadReg { s with host := host, response := response } r = loadReg s r := by
  cases r <;> rfl

theorem reads_of_target {offset : Nat} {r : HostReg} (h : target 32 (BitVec.ofNat 13 offset) = some r) (s : State) :
    Reads s offset (loadReg s r) := by
  intro rest
  have hload : loadReg { s with host := rest } r = loadReg s r := loadReg_host_response s rest s.response r
  simp only [step, takeAccess, hostAccess, hostRead, h, hload]
  rfl

/-- A write to a read-only word changes nothing, in the fault state or outside it (20_memory.md R83). -/
theorem storeReg_readOnly {r : HostReg} (h : r.kind = .readOnly) (s : State) (w : Word) : storeReg s r w = s := by
  cases r <;> simp_all [HostReg.kind, storeReg]

theorem writes_readOnly {offset : Nat} {r : HostReg} (h : target 32 (BitVec.ofNat 13 offset) = some r)
    (hr : r.kind = .readOnly) (s : State) (w : Word) : Writes s offset w s := by
  intro rest
  have hcmd : r ≠ .cmd := fun e => by simp [e, HostReg.kind] at hr
  have hctrl : r ≠ .ctrl := fun e => by simp [e, HostReg.kind] at hr
  simp only [step, takeAccess, hostAccess, hostWrite, h, storeReg_readOnly hr, ite_self]
  rfl

theorem target_cfg : target 32 (BitVec.ofNat 13 0x1C) = some .cfg := by decide

theorem target_ctxStat : target 32 (BitVec.ofNat 13 0x0C) = some .ctxStat := by decide

theorem target_ctrl : target 32 0x18 = some .ctrl := by decide

/-! ### A state with another value of the parameter -/

/-- `s` in a block constructed with `STATIC_PRECOMP = b`. -/
def State.withStatic (s : State) (b : Bool) : State := { s with staticPrecomp := b }

section
variable (s : State) (b : Bool)

@[simp] theorem State.withStatic_self : s.withStatic s.staticPrecomp = s := rfl
@[simp] theorem State.withStatic_staticPrecomp : (s.withStatic b).staticPrecomp = b := rfl
@[simp] theorem State.withStatic_tflag : (s.withStatic b).tflag = s.tflag := rfl
@[simp] theorem State.withStatic_seed : (s.withStatic b).seed = s.seed := rfl
@[simp] theorem State.withStatic_gctx : (s.withStatic b).gctx = s.gctx := rfl
@[simp] theorem State.withStatic_mctx : (s.withStatic b).mctx = s.mctx := rfl

@[simp] theorem State.withStatic_readS (i : SSel) : (s.withStatic b).readS i = s.readS i := rfl
@[simp] theorem State.withStatic_readF (i : FSel) : (s.withStatic b).readF i = s.readF i := rfl
@[simp] theorem State.withStatic_readA (i : ASel) : (s.withStatic b).readA i = s.readA i := rfl
@[simp] theorem State.withStatic_readJ (i : JSel) : (s.withStatic b).readJ i = s.readJ i := rfl
@[simp] theorem State.withStatic_readT (i : TSel) : (s.withStatic b).readT i = s.readT i := rfl

@[simp] theorem State.withStatic_writeS (i : SSel) (v : Sc) :
    (s.withStatic b).writeS i v = (s.writeS i v).withStatic b := rfl
@[simp] theorem State.withStatic_writeF (i : FSel) (v : Fe) :
    (s.withStatic b).writeF i v = (s.writeF i v).withStatic b := rfl
@[simp] theorem State.withStatic_writeA (i : ASel) (v : Ge) :
    (s.withStatic b).writeA i v = (s.writeA i v).withStatic b := rfl
@[simp] theorem State.withStatic_writeJ (i : JSel) (v : Gej) :
    (s.withStatic b).writeJ i v = (s.writeJ i v).withStatic b := rfl
@[simp] theorem State.withStatic_writeT (i : TSel) (v : St) :
    (s.withStatic b).writeT i v = (s.writeT i v).withStatic b := rfl
@[simp] theorem State.withStatic_writeW (i : WSel) (buf : WBuf) :
    (s.withStatic b).writeW i buf = (s.writeW i buf).withStatic b := rfl
@[simp] theorem State.withStatic_writeT1 (t : Bool) :
    (s.withStatic b).writeT1 t = (s.writeT1 t).withStatic b := rfl
@[simp] theorem State.withStatic_writeRetval (v : BitVec 9) :
    (s.withStatic b).writeRetval v = (s.writeRetval v).withStatic b := rfl
@[simp] theorem State.withStatic_writeSeed (v : U256) :
    (s.withStatic b).writeSeed v = (s.writeSeed v).withStatic b := rfl
@[simp] theorem State.withStatic_writeG (c : GSlot) (x : GenCtx) :
    (s.withStatic b).writeG c x = (s.writeG c x).withStatic b := rfl
@[simp] theorem State.withStatic_writeM (c : MSlot) (x : MulCtx) :
    (s.withStatic b).writeM c x = (s.writeM c x).withStatic b := rfl
@[simp] theorem State.withStatic_takeFault (f : Fault) (op : Byte) :
    (s.withStatic b).takeFault f op = (s.takeFault f op).withStatic b := rfl

@[simp] theorem State.withStatic_recordLeak (i : Instr) (f : Option Fault) (tr : Trace) :
    (s.withStatic b).recordLeak i f tr = (s.recordLeak i f tr).withStatic b := by
  unfold State.recordLeak; split <;> rfl

@[simp] theorem writeWithRatio_withStatic (rd : JSel) (rc : FSel) (r : Gej × Fe) :
    writeWithRatio (s.withStatic b) rd rc r = (writeWithRatio s rd rc r).withStatic b := rfl

@[simp] theorem batchOperandsFrom_withStatic (first count : Nat) :
    batchOperandsFrom (s.withStatic b) first count = batchOperandsFrom s first count := rfl

@[simp] theorem writeBatch_withStatic (gs : List Ge) (first : Nat) :
    writeBatch (s.withStatic b) first gs = (writeBatch s first gs).withStatic b := by
  induction gs generalizing s first with
  | nil => rfl
  | cons g rest ih => exact ih (s.writeA (Fin.ofNat 8 first) g) (first + 1)

/-! ### No command tells the two configurations apart (70_reset_and_hazards.md R374) -/

/-- The answer `a` in a block constructed with `STATIC_PRECOMP = b`. -/
def answerWithStatic (b : Bool) : Answer → Answer
  | .next t => .next (t.withStatic b)
  | .fault r => .fault r
  | .refused r => .refused r

/-- A command that computes the same results in both configurations ends the same way in both. -/
theorem finish_withStatic (i : Instr) (tr : Trace) (r : Except Fault State) :
    finish i (s.withStatic b) tr (r.map (·.withStatic b)) = answerWithStatic b (finish i s tr r) := by
  cases r with
  | ok u => simp [Except.map, finish_ok, answerWithStatic]
  | error f => simp [Except.map, finish_error, answerWithStatic]

@[simp] theorem finish_ok_withStatic (i : Instr) (tr : Trace) (u : State) :
    finish i (s.withStatic b) tr (.ok (u.withStatic b)) = answerWithStatic b (finish i s tr (.ok u)) :=
  finish_withStatic s b i tr (.ok u)

@[simp] theorem finish_error_withStatic (i : Instr) (tr : Trace) (f : Fault) :
    finish i (s.withStatic b) tr (.error f) = answerWithStatic b (finish i s tr (.error f)) :=
  finish_withStatic s b i tr (.error f)

theorem convertTo_withStatic (rd : ASel) (ra : JSel) :
    convertTo (s.withStatic b) rd ra = (convertTo s rd ra).map (·.withStatic b) := by
  by_cases h : needsZeroInverse (s.readJ ra) <;> simp [convertTo_eq, h, Except.map]

theorem invertTo_withStatic (rd ra : SSel) :
    invertTo (s.withStatic b) rd ra = (invertTo s rd ra).map (·.withStatic b) := by
  by_cases h : (s.readS ra).val = 0 <;> simp [invertTo_eq, h, Except.map]

theorem blindWith_withStatic (draw : Nat → Nat) (cap : Nat) (cx : GSlot) :
    blindWith draw cap cx (s.withStatic b) = answerWithStatic b (blindWith draw cap cx s) := by
  cases h : s.gctx[cx].table with
  | error f => simp [blindWith, h, -Fin.getElem_fin]
  | ok t =>
    rcases hd : blindDraws draw cap with ⟨f | ⟨scale, k⟩, drawn⟩ <;> simp [blindWith, h, hd, -Fin.getElem_fin]

/-- Every command does in one configuration what it does in the other. -/
theorem exec_withStatic (i : Instr) : exec i (s.withStatic b) = answerWithStatic b (exec i s) := by
  cases i with
  | gejSetGe => simp [exec, execGejSetGe]
  | geSetGej => simp only [exec, execGeSetGej, convertTo_withStatic, finish_withStatic]
  | geSetGejVar => simp only [exec, execGeSetGejVar, convertTo_withStatic, finish_withStatic]
  | geSetGejZinv => simp [exec, execGeSetGejZinv]
  | batchNorm rd ra count =>
    by_cases hrange : BatchRangeOk rd ra count
    · by_cases hzero : (batchOperandsFrom s ra count).any needsZeroInverse <;>
        simp only [exec, execBatchNorm, batchOperandsFrom_withStatic, writeBatch_withStatic,
          if_neg (not_not.2 hrange), hzero, Bool.false_eq_true, if_true, if_false, finish_ok_withStatic,
          finish_error_withStatic]
    · simp only [exec, execBatchNorm, if_pos hrange, finish_error_withStatic]
  | geNeg => simp [exec, execGeNeg]
  | gejNeg => simp [exec, execGejNeg]
  | geValid => simp [exec, execGeValid]
  | gejRescale rd ra rc => by_cases h : (s.readF rc).val = 0 <;> simp [exec, execGejRescale, h]
  | geToSt rd ra => by_cases h : (s.readA ra).inf <;> simp [exec, execGeToSt, h]
  | geFromSt => simp [exec, execGeFromSt]
  | stCmov => simp [exec, execStCmov]
  | stCsel => simp [exec, execStCsel]
  | gejDblVar => simp [exec, execGejDblVar]
  | gejAddVar => simp [exec, execGejAddVar]
  | gejAddGeVar => simp [exec, execGejAddGeVar]
  | gejAddZinvVar => simp [exec, execGejAddZinvVar]
  | gejAddGe rd ra rb => by_cases h : (s.readA rb).inf <;> simp [exec, execGejAddGe, h]
  | scAdd => simp [exec, execScAdd]
  | scMul => simp [exec, execScMul]
  | scNeg => simp [exec, execScNeg]
  | scInv => simp only [exec, execScInv, invertTo_withStatic, finish_withStatic]
  | scInvVar => simp only [exec, execScInvVar, invertTo_withStatic, finish_withStatic]
  | scIsEven => simp [exec, execScIsEven]
  | wnaf rd ra w len =>
    by_cases hparam : w.val < 2 ∨ 256 < len.val
    · simp only [exec, execWnaf, if_pos hparam, finish_error_withStatic]
    · cases he : wnafEncode (s.readS ra) w len <;>
        simp only [exec, execWnaf, if_neg hparam, he, State.withStatic_readS, State.withStatic_writeW,
          State.withStatic_writeRetval, finish_ok_withStatic, finish_error_withStatic]
  | genBuild cx => by_cases h : s.gctx[cx].built <;> simp [exec, execGenBuild, h, -Fin.getElem_fin]
  | genBlind cx => exact blindWith_withStatic s b _ _ cx
  | genMul rd ra cx => cases h : s.gctx[cx].table <;> simp [exec, execGenMul, h, -Fin.getElem_fin]
  | genClone => simp [exec, execGenClone]
  | genClear => simp [exec, execGenClear]
  | genSel rd ra j cx => cases h : s.gctx[cx].table <;> simp [exec, execGenSel, h, -Fin.getElem_fin]
  | genRd rd e j cx => cases h : s.gctx[cx].table <;> simp [exec, execGenRd, h, -Fin.getElem_fin]
  | mulBuild cx => by_cases h : s.mctx[cx].built <;> simp [exec, execMulBuild, h, -Fin.getElem_fin]
  | mulClone => simp [exec, execMulClone]
  | mulClear => simp [exec, execMulClear]
  | pregLookup rd simm16 cx =>
    cases h : s.mctx[cx].table with
    | error f => simp [exec, execPregLookup, h, -Fin.getElem_fin]
    | ok t => cases hi : oddIndex 16384 (sext16 simm16) <;> simp [exec, execPregLookup, h, hi, -Fin.getElem_fin]
  | dualMul rd ra rb rc cx =>
    cases h : s.mctx[cx].table with
    | error f => simp [exec, execDualMul, h, -Fin.getElem_fin]
    | ok t =>
      cases hd : dualMulCore t (s.readA ra) (s.readS rb) (s.readS rc) <;>
        simp [exec, execDualMul, h, hd, -Fin.getElem_fin]

end

theorem exec_next_withStatic {i : Instr} {s t : State} (b : Bool) (h : exec i s = .next t) :
    exec i (s.withStatic b) = .next (t.withStatic b) := by
  rw [exec_withStatic, h, answerWithStatic]

/-! ### Nothing writes the parameter (00_scope.md R8) -/

/-- A command run in its own configuration answers a state of that configuration, since it answers so in every one. -/
theorem exec_staticPrecomp {i : Instr} {s t : State} (h : exec i s = .next t) : t.staticPrecomp = s.staticPrecomp := by
  have hown : exec i s = .next (t.withStatic s.staticPrecomp) := exec_next_withStatic s.staticPrecomp h
  have ht : t = t.withStatic s.staticPrecomp := Host.Outcome.next.inj (h.symm.trans hown)
  rw [ht, State.withStatic_staticPrecomp]

theorem cmdWrite_staticPrecomp {w : Word} {s t : State} (h : cmdWrite w s = .next t) :
    t.staticPrecomp = s.staticPrecomp := by
  rcases cmdWrite_cases w s with ⟨-, hs⟩ | ⟨-, -, hs⟩ | ⟨-, i, -, hs⟩ <;> rw [hs] at h
  · rw [← Host.Outcome.next.inj h]
  · rw [← Host.Outcome.next.inj h, State.takeIllegal_staticPrecomp]
  · exact exec_staticPrecomp h

theorem ctrlWrite_staticPrecomp (w : Word) (s : State) : (ctrlWrite w s).staticPrecomp = s.staticPrecomp := by
  unfold ctrlWrite; split <;> rfl

theorem storeReg_staticPrecomp (s : State) (r : HostReg) (w : Word) :
    (storeReg s r w).staticPrecomp = s.staticPrecomp := by
  cases r <;> rfl

theorem step_staticPrecomp {s t : State} (h : step s = .next t) : t.staticPrecomp = s.staticPrecomp := by
  rcases step_cases h with ⟨-, rfl⟩ | ⟨a, rest, -, hread | hwrite | ⟨-, rfl⟩⟩
  · rfl
  · obtain ⟨width, offset, -, ⟨-, rfl⟩ | ⟨r, -, rfl⟩⟩ := hread <;> rfl
  · obtain ⟨width, offset, w, -, ⟨-, rfl⟩ | ⟨-, hcmd⟩ | ⟨-, rfl⟩ | ⟨r, -, -, -, rfl⟩⟩ := hwrite
    · rfl
    · exact (cmdWrite_staticPrecomp hcmd).trans rfl
    · exact ctrlWrite_staticPrecomp w _
    · split
      · rfl
      · exact storeReg_staticPrecomp _ r w
  · rfl

/-! ### The slots after a reset and after a build (70_reset_and_hazards.md R374) -/

/-- Either reset leaves the block's own reset state (70_reset_and_hazards.md R370). -/
theorem step_of_resetComesNext {s t : State} (hr : ResetComesNext s) (h : step s = .next t) :
    ∃ rest, t = ({ s with host := rest, response := .accepted } : State).resetBlock := by
  obtain ⟨rest, hhost | ⟨w, hw, hhost⟩⟩ := hr <;> refine ⟨rest, Host.Outcome.next.inj (h.symm.trans ?_)⟩
  · simp only [step, takeAccess, hhost, hostAccess]
    rfl
  · simp only [step, takeAccess, hhost, hostAccess, hostWrite, target_ctrl, ctrlWrite, lowBit, hw, if_true]
    rfl

/-- Every slot of a static block is built after a reset. -/
theorem resetBlock_static_slots {s : State} (hs : s.staticPrecomp = true) :
    s.resetBlock.gctx = Vector.replicate Config.ngctx .justBuilt ∧
      s.resetBlock.mctx = Vector.replicate Config.nmctx .justBuilt := by
  simp [State.resetOf, hs]

theorem genBuild_unbuilt {c : GSlot} {s t : State} (hc : s.gctx[c].built = false)
    (h : exec (.genBuild c) s = .next t) : t.gctx[c] = .justBuilt := by
  simp only [exec, execGenBuild, hc, finish_ok, Bool.false_eq_true, if_false] at h
  rw [← Host.Outcome.next.inj h]
  simp

theorem mulBuild_unbuilt {c : MSlot} {s t : State} (hc : s.mctx[c].built = false)
    (h : exec (.mulBuild c) s = .next t) : t.mctx[c] = .justBuilt := by
  simp only [exec, execMulBuild, hc, finish_ok, Bool.false_eq_true, if_false] at h
  rw [← Host.Outcome.next.inj h]
  simp

@[simp] theorem GenCtx.built_justBuilt : GenCtx.justBuilt.built = true := rfl

@[simp] theorem MulCtx.built_justBuilt : MulCtx.justBuilt.built = true := rfl

/-- `CTXSTAT` shows both slots of either kind built (10_state.md R47). -/
theorem ctxStatWord_justBuilt {s : State} (hg : s.gctx = Vector.replicate Config.ngctx .justBuilt)
    (hm : s.mctx = Vector.replicate Config.nmctx .justBuilt) : ctxStatWord s = 0x00030003 := by
  simp [ctxStatWord, hg, hm, List.replicate]

/-! ### The obligation -/

theorem cfg_reads (s : State) : Reads s 0x1C (if s.staticPrecomp then 1 else 0) :=
  reads_of_target target_cfg s

/-- Settles O60: a command's answer commutes with changing the parameter, so no command writes it or depends on it;
the other steps are cases of the host port, and a static block's reset state has every slot as a build leaves it. -/
theorem staticConfiguration : Obligations.StaticConfiguration := by
  unfold Obligations.StaticConfiguration
  refine ⟨rfl, fun s t => step_staticPrecomp, fun s => ⟨cfg_reads s, fun w => ?_⟩, fun s t hs hr h => ?_,
    fun i s t static => exec_next_withStatic static⟩
  · exact writes_readOnly target_cfg rfl s w
  · obtain ⟨rest, ht⟩ := step_of_resetComesNext hr h
    obtain ⟨hg, hm⟩ : t.gctx = Vector.replicate Config.ngctx .justBuilt ∧
        t.mctx = Vector.replicate Config.nmctx .justBuilt := ht ▸ resetBlock_static_slots hs
    refine ⟨fun c u v hu hv => ?_, fun c u v hu hv => ?_, ?_, ?_⟩
    · rw [genBuild_unbuilt hu hv, hg]
      exact ⟨rfl, by simp⟩
    · rw [mulBuild_unbuilt hu hv, hm]
      exact ⟨rfl, by simp⟩
    · have hread : Reads t 0x0C (ctxStatWord t) := reads_of_target target_ctxStat t
      rwa [ctxStatWord_justBuilt hg hm] at hread
    · have hread : Reads t 0x1C (if t.staticPrecomp then 1 else 0) := cfg_reads t
      rwa [step_staticPrecomp h, hs, if_pos rfl] at hread

end Sys2Proof.Machine
end

section
/-! PROOFS. What a command can do, said once for all 37: it writes a list of values to its destinations, or raises a
fault, and both depend only on the operand values of its sources (10_state.md R56, 30_encoding.md R118). -/

namespace Sys2Proof.Machine

/-! ### Writes as data -/

/-- One result on its way to its destination (10_state.md R39, R56). -/
inductive Write where
  | s (i : SSel) (v : Sc)
  | f (i : FSel) (v : Fe)
  | a (i : ASel) (v : Ge)
  | j (i : JSel) (v : Gej)
  | t (i : TSel) (v : St)
  | w (b : WSel) (v : WBuf)
  | tflag (v : Bool)
  | retval (v : BitVec 9)
  | seed (v : U256)
  | gctx (c : GSlot) (v : GenCtx)
  | mctx (c : MSlot) (v : MulCtx)

/-- Where a result goes. -/
def Write.place : Write → Place
  | .s i _ => .s i
  | .f i _ => .f i
  | .a i _ => .a i
  | .j i _ => .j i
  | .t i _ => .t i
  | .w b _ => .w b
  | .tflag _ => .tflag
  | .retval _ => .retval
  | .seed _ => .seed
  | .gctx c _ => .gctx c
  | .mctx c _ => .mctx c

/-- The state with one result written. -/
def State.apply (s : State) : Write → State
  | .s i v => s.writeS i v
  | .f i v => s.writeF i v
  | .a i v => s.writeA i v
  | .j i v => s.writeJ i v
  | .t i v => s.writeT i v
  | .w b v => s.writeW b v
  | .tflag v => s.writeT1 v
  | .retval v => s.writeRetval v
  | .seed v => s.writeSeed v
  | .gctx c v => s.writeG c v
  | .mctx c v => s.writeM c v

/-- The state with the results of a command written, in order. -/
def State.applyAll (s : State) (ws : List Write) : State := ws.foldl State.apply s

/-- The writes of a batch to the affine registers from `first` on (40_group_convert.md R155). -/
def batchWrites (first : Nat) : List Ge → List Write
  | [] => []
  | g :: rest => .a (Fin.ofNat 8 first) g :: batchWrites (first + 1) rest

theorem writeBatch_eq_applyAll (gs : List Ge) (s : State) (first : Nat) :
    writeBatch s first gs = s.applyAll (batchWrites first gs) := by
  induction gs generalizing s first with
  | nil => rfl
  | cons g rest ih => exact ih (s.writeA (Fin.ofNat 8 first) g) (first + 1)

theorem batchWrites_places (gs : List Ge) (first : Nat) :
    (batchWrites first gs).map Write.place = (List.range gs.length).map fun t => .a (Fin.ofNat 8 (first + t)) := by
  induction gs generalizing first with
  | nil => rfl
  | cons g rest ih =>
    rw [batchWrites, List.map_cons, ih, List.length_cons, List.range_succ_eq_map, List.map_cons, List.map_map]
    simp [Write.place, Nat.add_assoc, Nat.add_comm 1, Function.comp_def]

/-! ### The state after a write -/

/-- A register of a file other than the one written holds what it held. -/
theorem getElem_set_of_ne {α : Type} {k : Nat} (v : Vector α k) (x : α) {i j : Fin k} (h : i ≠ j) :
    (v.set i x)[j] = v[j] :=
  Vector.getElem_set_ne i.isLt j.isLt fun e => h (Fin.ext e)

/-- A write changes nothing but its place. -/
theorem apply_frame (s : State) (w : Write) {d : Place} (h : w.place ≠ d) : SameAt (s.apply w) s d := by
  cases w with
  | s i v => cases d with
    | s k => exact getElem_set_of_ne _ _ fun e => h (congrArg _ e)
    | _ => rfl
  | f i v => cases d with
    | f k => exact getElem_set_of_ne _ _ fun e => h (congrArg _ e)
    | _ => rfl
  | a i v => cases d with
    | a k => exact getElem_set_of_ne _ _ fun e => h (congrArg _ e)
    | _ => rfl
  | j i v => cases d with
    | j k => exact getElem_set_of_ne _ _ fun e => h (congrArg _ e)
    | _ => rfl
  | t i v => cases d with
    | t k => exact getElem_set_of_ne _ _ fun e => h (congrArg _ e)
    | _ => rfl
  | w b v => cases d with
    | w k => exact getElem_set_of_ne _ _ fun e => h (congrArg _ e)
    | _ => rfl
  | tflag v => cases d with
    | tflag => exact absurd rfl h
    | _ => rfl
  | retval v => cases d with
    | retval => exact absurd rfl h
    | _ => rfl
  | seed v => cases d with
    | seed => exact absurd rfl h
    | _ => rfl
  | gctx c v => cases d with
    | gctx k => exact getElem_set_of_ne _ _ fun e => h (congrArg _ e)
    | _ => rfl
  | mctx c v => cases d with
    | mctx k => exact getElem_set_of_ne _ _ fun e => h (congrArg _ e)
    | _ => rfl

/-- A write leaves the same content at its place, whatever the state. -/
theorem apply_sameAt_place (s s' : State) (w : Write) : SameAt (s.apply w) (s'.apply w) w.place := by
  cases w <;> simp [Write.place, SameAt, State.apply]

theorem SameAt.symm {s t : State} {d : Place} (h : SameAt s t d) : SameAt t s d := by
  cases d <;> exact Eq.symm h

theorem SameAt.trans {s t u : State} {d : Place} (h : SameAt s t d) (h' : SameAt t u d) : SameAt s u d := by
  cases d <;> exact Eq.trans h h'

theorem apply_sameAt {s s' : State} {d : Place} (w : Write) (h : w.place = d ∨ SameAt s s' d) :
    SameAt (s.apply w) (s'.apply w) d := by
  by_cases hd : w.place = d
  · exact hd ▸ apply_sameAt_place s s' w
  · exact ((apply_frame s w hd).trans (h.resolve_left hd)).trans (apply_frame s' w hd).symm

/-- A list of writes leaves the same content wherever it writes, whatever the state. -/
theorem applyAll_sameAt {s s' : State} {d : Place} (ws : List Write) (h : d ∈ ws.map Write.place ∨ SameAt s s' d) :
    SameAt (s.applyAll ws) (s'.applyAll ws) d := by
  induction ws generalizing s s' with
  | nil => exact h.resolve_left (List.not_mem_nil)
  | cons w rest ih =>
    refine ih ?_
    rcases h with h | h
    · rcases List.mem_cons.1 h with rfl | h
      · exact .inr (apply_sameAt w (.inl rfl))
      · exact .inl h
    · exact .inr (apply_sameAt w (.inr h))

/-- A list of writes changes nothing but its places. -/
theorem applyAll_frame (s : State) {d : Place} (ws : List Write) (h : d ∉ ws.map Write.place) :
    SameAt (s.applyAll ws) s d := by
  induction ws generalizing s with
  | nil => cases d <;> rfl
  | cons w rest ih =>
    rw [List.map_cons, List.mem_cons, not_or] at h
    exact (ih (s.apply w) h.2).trans (apply_frame s w (Ne.symm h.1))

/-- No result goes to `STATUS` or `FAULTINFO`. -/
theorem applyAll_fault (s : State) (ws : List Write) :
    (s.applyAll ws).fault = s.fault ∧ (s.applyAll ws).faultInfo = s.faultInfo := by
  induction ws generalizing s with
  | nil => exact ⟨rfl, rfl⟩
  | cons w rest ih =>
    have hw : (s.apply w).fault = s.fault ∧ (s.apply w).faultInfo = s.faultInfo := by cases w <;> exact ⟨rfl, rfl⟩
    exact ⟨(ih _).1.trans hw.1, (ih _).2.trans hw.2⟩

/-! ### What a command writes depends only on its sources -/

/-- Two states show a command the same operand values at its sources. -/
def SameSources (i : Instr) (s s' : State) : Prop := ∀ d ∈ sources i, SameOperand s s' d

theorem SameSources.refl (i : Instr) (s : State) : SameSources i s s := fun d _ => by cases d <;> rfl

section
variable {i : Instr} {s s' : State} (h : SameSources i s s')
include h

theorem SameSources.readS (k : SSel) (hk : (sources i).contains (.s k)) : s'.readS k = s.readS k :=
  (h _ (List.contains_iff_mem.1 hk)).symm
theorem SameSources.readF (k : FSel) (hk : (sources i).contains (.f k)) : s'.readF k = s.readF k :=
  (h _ (List.contains_iff_mem.1 hk)).symm
theorem SameSources.readA (k : ASel) (hk : (sources i).contains (.a k)) : s'.readA k = s.readA k :=
  (h _ (List.contains_iff_mem.1 hk)).symm
theorem SameSources.readJ (k : JSel) (hk : (sources i).contains (.j k)) : s'.readJ k = s.readJ k :=
  (h _ (List.contains_iff_mem.1 hk)).symm
theorem SameSources.readT (k : TSel) (hk : (sources i).contains (.t k)) : s'.readT k = s.readT k :=
  (h _ (List.contains_iff_mem.1 hk)).symm
theorem SameSources.tflag (hk : (sources i).contains .tflag) : s'.tflag = s.tflag :=
  (h _ (List.contains_iff_mem.1 hk)).symm
theorem SameSources.seed (hk : (sources i).contains .seed) : s'.seed = s.seed :=
  (h _ (List.contains_iff_mem.1 hk)).symm
theorem SameSources.gctx (c : GSlot) (hk : (sources i).contains (.gctx c)) : s'.gctx[c] = s.gctx[c] :=
  (h _ (List.contains_iff_mem.1 hk)).symm
theorem SameSources.mctx (c : MSlot) (hk : (sources i).contains (.mctx c)) : s'.mctx[c] = s.mctx[c] :=
  (h _ (List.contains_iff_mem.1 hk)).symm

end

/-- From every state with the sources of `s`, the command `i` ends with the results `r`, which go to its
destinations. -/
def EndsWith (i : Instr) (s : State) (tr : Trace) (r : Except Fault (List Write)) : Prop :=
  (∀ s', SameSources i s s' → exec i s' = finish i s' tr (r.map s'.applyAll)) ∧
  ∀ ws, r = .ok ws → ws.map Write.place = destinations i

theorem endsWith_ok {i : Instr} {s : State} (tr : Trace) (ws : List Write)
    (hplaces : ws.map Write.place = destinations i)
    (h : ∀ s', SameSources i s s' → exec i s' = finish i s' tr (.ok (s'.applyAll ws))) :
    ∃ tr r, EndsWith i s tr r :=
  ⟨tr, .ok ws, h, fun ws' h' => by rw [← Except.ok.inj h', hplaces]⟩

theorem endsWith_error {i : Instr} {s : State} (tr : Trace) (f : Fault)
    (h : ∀ s', SameSources i s s' → exec i s' = finish i s' tr (.error f)) : ∃ tr r, EndsWith i s tr r :=
  ⟨tr, .error f, h, fun ws h' => by simp at h'⟩

theorem apply_gctx_self (s : State) (c : GSlot) : s.apply (.gctx c s.gctx[c]) = s := by
  simp [State.apply, State.writeG]

theorem apply_mctx_self (s : State) (c : MSlot) : s.apply (.mctx c s.mctx[c]) = s := by
  simp [State.apply, State.writeM]

theorem batchOperandsFrom_congr {s s' : State} {first count : Nat}
    (h : ∀ d ∈ (List.range count).map fun t => Place.j (Fin.ofNat 8 (first + t)), SameOperand s s' d) :
    batchOperandsFrom s first count = batchOperandsFrom s' first count :=
  List.map_congr_left fun _ ht => h _ (List.mem_map_of_mem ht)

/-- Every command ends with results for its destinations, or with a fault, and either way as its sources say. -/
theorem exec_endsWith (i : Instr) (s : State) : ∃ tr r, EndsWith i s tr r := by
  cases i with
  | gejSetGe rd ra =>
    refine endsWith_ok Trace.none [.j rd (gejOfGe (s.readA ra))] rfl fun s' h => ?_
    simp (disch := simp [sources]) only [exec, execGejSetGe, h.readA]
    rfl
  | geSetGej rd ra =>
    by_cases hf : needsZeroInverse (s.readJ ra)
    · refine endsWith_error Trace.none .zero fun s' h => ?_
      simp (disch := simp [sources]) only [exec, execGeSetGej, convertTo_eq, h.readJ, if_pos hf]
    · refine endsWith_ok Trace.none [.a rd (affineOf (s.readJ ra))] rfl fun s' h => ?_
      simp (disch := simp [sources]) only [exec, execGeSetGej, convertTo_eq, h.readJ, if_neg hf]
      rfl
  | geSetGejVar rd ra =>
    by_cases hf : needsZeroInverse (s.readJ ra)
    · refine endsWith_error Trace.none .zero fun s' h => ?_
      simp (disch := simp [sources]) only [exec, execGeSetGejVar, convertTo_eq, h.readJ, if_pos hf]
    · refine endsWith_ok Trace.none [.a rd (affineOf (s.readJ ra))] rfl fun s' h => ?_
      simp (disch := simp [sources]) only [exec, execGeSetGejVar, convertTo_eq, h.readJ, if_neg hf]
      rfl
  | geSetGejZinv rd ra rc =>
    refine endsWith_ok Trace.none [.a rd (geOfGejZinv (s.readJ ra) (s.readF rc))] rfl fun s' h => ?_
    simp (disch := simp [sources]) only [exec, execGeSetGejZinv, h.readF, h.readJ]
    rfl
  | batchNorm rd ra count =>
    by_cases hrange : BatchRangeOk rd ra count
    · by_cases hz : (batchOperandsFrom s ra count).any needsZeroInverse
      · refine endsWith_error Trace.none .zero fun s' h => ?_
        simp only [exec, execBatchNorm, ← batchOperandsFrom_congr h, if_neg (not_not.2 hrange), if_pos hz]
      · refine endsWith_ok Trace.none (batchWrites rd ((batchOperandsFrom s ra count).map affineOf)) ?_ fun s' h => ?_
        · simp [batchWrites_places, batchOperandsFrom, destinations]
        · simp only [exec, execBatchNorm, ← batchOperandsFrom_congr h, if_neg (not_not.2 hrange), if_neg hz,
            writeBatch_eq_applyAll]
    · refine endsWith_error Trace.none .illegal fun s' _ => ?_
      simp only [exec, execBatchNorm, if_pos hrange]
  | geNeg rd ra =>
    refine endsWith_ok Trace.none [.a rd (geNeg (s.readA ra))] rfl fun s' h => ?_
    simp (disch := simp [sources]) only [exec, execGeNeg, h.readA]
    rfl
  | gejNeg rd ra =>
    refine endsWith_ok Trace.none [.j rd (gejNeg (s.readJ ra))] rfl fun s' h => ?_
    simp (disch := simp [sources]) only [exec, execGejNeg, h.readJ]
    rfl
  | geValid ra =>
    refine endsWith_ok Trace.none [.tflag (validFlag (s.readA ra))] rfl fun s' h => ?_
    simp (disch := simp [sources]) only [exec, execGeValid, h.readA]
    rfl
  | gejRescale rd ra rc =>
    by_cases hf : fiszero (s.readF rc)
    · refine endsWith_error Trace.none .zero fun s' h => ?_
      simp (disch := simp [sources]) only [exec, execGejRescale, h.readF, if_pos hf]
    · refine endsWith_ok Trace.none [.j rd (gejRescale (s.readJ ra) (s.readF rc))] rfl fun s' h => ?_
      simp (disch := simp [sources]) only [exec, execGejRescale, h.readF, h.readJ, if_neg hf]
      rfl
  | geToSt rd ra =>
    by_cases hf : (s.readA ra).inf
    · refine endsWith_error Trace.none .infinity fun s' h => ?_
      simp (disch := simp [sources]) only [exec, execGeToSt, h.readA, if_pos hf]
    · refine endsWith_ok Trace.none [.t rd ⟨(s.readA ra).x, (s.readA ra).y⟩] rfl fun s' h => ?_
      simp (disch := simp [sources]) only [exec, execGeToSt, h.readA, if_neg hf]
      rfl
  | geFromSt rd ra =>
    refine endsWith_ok Trace.none [.a rd (geOfSt (s.readT ra))] rfl fun s' h => ?_
    simp (disch := simp [sources]) only [exec, execGeFromSt, h.readT]
    rfl
  | stCmov rd ra =>
    refine endsWith_ok Trace.none [.t rd (stCmov (s.readT rd) (s.readT ra) s.tflag)] rfl fun s' h => ?_
    simp (disch := simp [sources]) only [exec, execStCmov, h.readT, h.tflag]
    rfl
  | stCsel rd ra rb =>
    refine endsWith_ok Trace.none [.t rd (stCmov (s.readT ra) (s.readT rb) s.tflag)] rfl fun s' h => ?_
    simp (disch := simp [sources]) only [exec, execStCsel, h.readT, h.tflag]
    rfl
  | gejDblVar rd ra rc =>
    refine endsWith_ok Trace.none [.j rd (gejDouble (s.readJ ra)).1, .f rc (gejDouble (s.readJ ra)).2] rfl
      fun s' h => ?_
    simp (disch := simp [sources]) only [exec, execGejDblVar, h.readJ]
    rfl
  | gejAddVar rd ra rb rc =>
    refine endsWith_ok Trace.none
      [.j rd (gejAdd (s.readJ ra) (s.readJ rb)).1, .f rc (gejAdd (s.readJ ra) (s.readJ rb)).2] rfl fun s' h => ?_
    simp (disch := simp [sources]) only [exec, execGejAddVar, h.readJ]
    rfl
  | gejAddGeVar rd ra rb =>
    refine endsWith_ok Trace.none [.j rd (gejAddGe (s.readJ ra) (s.readA rb))] rfl fun s' h => ?_
    simp (disch := simp [sources]) only [exec, execGejAddGeVar, h.readA, h.readJ]
    rfl
  | gejAddZinvVar rd ra rb rc =>
    refine endsWith_ok Trace.none [.j rd (gejAddZinv (s.readJ ra) (s.readA rb) (s.readF rc))] rfl fun s' h => ?_
    simp (disch := simp [sources]) only [exec, execGejAddZinvVar, h.readF, h.readA, h.readJ]
    rfl
  | gejAddGe rd ra rb =>
    by_cases hf : (s.readA rb).inf
    · refine endsWith_error Trace.none .infinity fun s' h => ?_
      simp (disch := simp [sources]) only [exec, execGejAddGe, h.readA, if_pos hf]
    · refine endsWith_ok Trace.none [.j rd (gejAddGeCt (s.readJ ra) (s.readA rb))] rfl fun s' h => ?_
      simp (disch := simp [sources]) only [exec, execGejAddGe, h.readA, h.readJ, if_neg hf]
      rfl
  | scAdd rd ra rb =>
    refine endsWith_ok Trace.none [.s rd (sadd (s.readS ra) (s.readS rb))] rfl fun s' h => ?_
    simp (disch := simp [sources]) only [exec, execScAdd, h.readS]
    rfl
  | scMul rd ra rb =>
    refine endsWith_ok Trace.none [.s rd (smul (s.readS ra) (s.readS rb))] rfl fun s' h => ?_
    simp (disch := simp [sources]) only [exec, execScMul, h.readS]
    rfl
  | scNeg rd ra =>
    refine endsWith_ok Trace.none [.s rd (sneg (s.readS ra))] rfl fun s' h => ?_
    simp (disch := simp [sources]) only [exec, execScNeg, h.readS]
    rfl
  | scInv rd ra =>
    by_cases hf : (s.readS ra).val = 0
    · refine endsWith_error Trace.none .zero fun s' h => ?_
      simp (disch := simp [sources]) only [exec, execScInv, invertTo, h.readS, if_pos hf]
    · refine endsWith_ok Trace.none [.s rd (sinv (s.readS ra))] rfl fun s' h => ?_
      simp (disch := simp [sources]) only [exec, execScInv, invertTo, h.readS, if_neg hf]
      rfl
  | scInvVar rd ra =>
    by_cases hf : (s.readS ra).val = 0
    · refine endsWith_error Trace.none .zero fun s' h => ?_
      simp (disch := simp [sources]) only [exec, execScInvVar, invertTo, h.readS, if_pos hf]
    · refine endsWith_ok Trace.none [.s rd (sinv (s.readS ra))] rfl fun s' h => ?_
      simp (disch := simp [sources]) only [exec, execScInvVar, invertTo, h.readS, if_neg hf]
      rfl
  | scIsEven ra =>
    refine endsWith_ok Trace.none [.tflag (evenFlag (s.readS ra))] rfl fun s' h => ?_
    simp (disch := simp [sources]) only [exec, execScIsEven, h.readS]
    rfl
  | wnaf rd ra w len =>
    by_cases hparam : w.val < 2 ∨ 256 < len.val
    · refine endsWith_error Trace.none .wnafParam fun s' _ => ?_
      simp only [exec, execWnaf, if_pos hparam]
    · cases he : wnafEncode (s.readS ra) w len with
      | error f =>
        refine endsWith_error Trace.none f fun s' h => ?_
        simp (disch := simp [sources]) only [exec, execWnaf, if_neg hparam, h.readS, he]
      | ok d =>
        refine endsWith_ok Trace.none [.w rd d.toBuf, .retval (BitVec.ofNat 9 d.count)] rfl fun s' h => ?_
        simp (disch := simp [sources]) only [exec, execWnaf, if_neg hparam, h.readS, he]
        rfl
  | genBuild cx =>
    by_cases hb : s.gctx[cx].built
    · refine endsWith_ok Trace.none [.gctx cx s.gctx[cx]] rfl fun s' h => ?_
      have hself : s'.applyAll [.gctx cx s.gctx[cx]] = s' :=
        h.gctx cx (by simp [sources]) ▸ apply_gctx_self s' cx
      simp (disch := simp [sources]) only [exec, execGenBuild, h.gctx, if_pos hb, hself]
    · refine endsWith_ok Trace.none [.gctx cx .justBuilt] rfl fun s' h => ?_
      simp (disch := simp [sources]) only [exec, execGenBuild, h.gctx, if_neg hb]
      rfl
  | genBlind cx =>
    cases ht : s.gctx[cx].table with
    | error f =>
      refine endsWith_error Trace.none f fun s' h => ?_
      simp (disch := simp [sources]) only [exec, execGenBlind, blindWith, h.gctx, ht]
    | ok t =>
      rcases hd : blindDraws (fun u => intBe (Config.drbg (blindKey s.gctx[cx].blind s.seed) u)) Config.retryCap with
        ⟨f | ⟨scale, b⟩, drawn⟩
      · refine endsWith_error ⟨drawn, []⟩ f fun s' h => ?_
        simp (disch := simp [sources]) only [exec, execGenBlind, blindWith, h.gctx, h.seed, ht, hd]
      · refine endsWith_ok ⟨drawn, (reblind t s.gctx[cx] scale b).2⟩
          [.gctx cx (reblind t s.gctx[cx] scale b).1, .seed 0] rfl fun s' h => ?_
        simp (disch := simp [sources]) only [exec, execGenBlind, blindWith, h.gctx, h.seed, ht, hd]
        rfl
  | genMul rd ra cx =>
    cases ht : s.gctx[cx].table with
    | error f =>
      refine endsWith_error Trace.none f fun s' h => ?_
      simp (disch := simp [sources]) only [exec, execGenMul, h.gctx, ht]
    | ok t =>
      refine endsWith_ok ⟨0, (genMulCore t s.gctx[cx].initial s.gctx[cx].blind (s.readS ra)).2⟩
        [.j rd (genMulCore t s.gctx[cx].initial s.gctx[cx].blind (s.readS ra)).1] rfl
        fun s' h => ?_
      simp (disch := simp [sources]) only [exec, execGenMul, h.readS, h.gctx, ht]
      rfl
  | genClone cx cs =>
    refine endsWith_ok Trace.none [.gctx cx s.gctx[cs]] rfl fun s' h => ?_
    simp (disch := simp [sources]) only [exec, execGenClone, h.gctx]
    rfl
  | genClear cx => exact endsWith_ok Trace.none [.gctx cx .unbuilt] rfl fun _ _ => rfl
  | genSel rd ra j cx =>
    cases ht : s.gctx[cx].table with
    | error f =>
      refine endsWith_error Trace.none f fun s' h => ?_
      simp (disch := simp [sources]) only [exec, execGenSel, h.gctx, ht]
    | ok t =>
      refine endsWith_ok ⟨0, (genSelect t j (window (s.readS ra) j)).2⟩
        [.t rd (genSelect t j (window (s.readS ra) j)).1] rfl fun s' h => ?_
      simp (disch := simp [sources]) only [exec, execGenSel, h.readS, h.gctx, ht]
      rfl
  | genRd rd e j cx =>
    cases ht : s.gctx[cx].table with
    | error f =>
      refine endsWith_error Trace.none f fun s' h => ?_
      simp (disch := simp [sources]) only [exec, execGenRd, h.gctx, ht]
    | ok t =>
      refine endsWith_ok ⟨0, [.gen j e]⟩ [.t rd (t.read j e)] rfl
        fun s' h => ?_
      simp (disch := simp [sources]) only [exec, execGenRd, h.gctx, ht]
      rfl
  | mulBuild cx =>
    by_cases hb : s.mctx[cx].built
    · refine endsWith_ok Trace.none [.mctx cx s.mctx[cx]] rfl fun s' h => ?_
      have hself : s'.applyAll [.mctx cx s.mctx[cx]] = s' :=
        h.mctx cx (by simp [sources]) ▸ apply_mctx_self s' cx
      simp (disch := simp [sources]) only [exec, execMulBuild, h.mctx, if_pos hb, hself]
    · refine endsWith_ok Trace.none [.mctx cx .justBuilt] rfl fun s' h => ?_
      simp (disch := simp [sources]) only [exec, execMulBuild, h.mctx, if_neg hb]
      rfl
  | mulClone cx cs =>
    refine endsWith_ok Trace.none [.mctx cx s.mctx[cs]] rfl fun s' h => ?_
    simp (disch := simp [sources]) only [exec, execMulClone, h.mctx]
    rfl
  | mulClear cx => exact endsWith_ok Trace.none [.mctx cx .unbuilt] rfl fun _ _ => rfl
  | pregLookup rd simm16 cx =>
    cases ht : s.mctx[cx].table with
    | error f =>
      refine endsWith_error Trace.none f fun s' h => ?_
      simp (disch := simp [sources]) only [exec, execPregLookup, h.mctx, ht]
    | ok t =>
      cases hi : oddIndex 16384 (sext16 simm16) with
      | error f =>
        refine endsWith_error Trace.none f fun s' h => ?_
        simp (disch := simp [sources]) only [exec, execPregLookup, h.mctx, ht, hi]
      | ok idx =>
        refine endsWith_ok ⟨0, [.mul idx]⟩ [.a rd (oddSigned (sext16 simm16) (geOfSt (t.read idx)))] rfl fun s' h => ?_
        simp (disch := simp [sources]) only [exec, execPregLookup, h.mctx, ht, hi]
        rfl
  | dualMul rd ra rb rc cx =>
    cases ht : s.mctx[cx].table with
    | error f =>
      refine endsWith_error Trace.none f fun s' h => ?_
      simp (disch := simp [sources]) only [exec, execDualMul, h.mctx, ht]
    | ok t =>
      rcases hd : dualMulCore t (s.readA ra) (s.readS rb) (s.readS rc) with f | ⟨r, reads⟩
      · refine endsWith_error Trace.none f fun s' h => ?_
        simp (disch := simp [sources]) only [exec, execDualMul, h.readA, h.readS, h.mctx, ht, hd]
      · refine endsWith_ok ⟨0, reads⟩ [.j rd r] rfl fun s' h => ?_
        simp (disch := simp [sources]) only [exec, execDualMul, h.readA, h.readS, h.mctx, ht, hd]
        rfl

end Sys2Proof.Machine
end

section
/-! PROOFS. The state after a command: its frame, what it depends on, and that what it writes is canonical
(10_state.md R39, R56; 30_encoding.md R118). -/

namespace Sys2Proof.Machine

/-! ### The state after a command -/

theorem recordLeak_sameAt (s : State) (i : Instr) (f : Option Fault) (tr : Trace) (d : Place) :
    SameAt (s.recordLeak i f tr) s d := by
  cases d <;> simp [SameAt]

theorem takeFault_sameAt (s : State) (f : Fault) (op : Byte) (d : Place) : SameAt (s.takeFault f op) s d := by
  cases d <;> rfl

/-- Everything a command can do: write results to its destinations, or raise a fault (60_exceptions.md R340). -/
theorem exec_cases {i : Instr} {s t : State} (h : exec i s = .next t) :
    (∃ ws tr, ws.map Write.place = destinations i ∧ t = (s.applyAll ws).recordLeak i none tr) ∨
    ∃ f tr, t = (s.takeFault f i.opcode).recordLeak i (some f) tr := by
  obtain ⟨tr, r, hends, hplaces⟩ := exec_endsWith i s
  rw [hends s (.refl i s)] at h
  cases r with
  | ok ws => exact .inl ⟨ws, tr, hplaces ws rfl, (Host.Outcome.next.inj h).symm⟩
  | error f => exact .inr ⟨f, tr, (Host.Outcome.next.inj h).symm⟩

/-- A command changes no place but its destinations. -/
theorem exec_frame {i : Instr} {s t : State} (d : Place) (h : exec i s = .next t) (hd : d ∉ destinations i) :
    SameAt t s d := by
  rcases exec_cases h with ⟨ws, tr, hplaces, rfl⟩ | ⟨f, tr, rfl⟩
  · exact (recordLeak_sameAt ..).trans (applyAll_frame s ws (hplaces ▸ hd))
  · exact (recordLeak_sameAt ..).trans (takeFault_sameAt ..)

/-- Settles O15: a command ends with the same results or the same fault in both states. -/
theorem resultsDependOnNamedSources : Obligations.ResultsDependOnNamedSources := by
  unfold Obligations.ResultsDependOnNamedSources
  intro i s s' t t' hsrc h h'
  obtain ⟨tr, r, hends, hplaces⟩ := exec_endsWith i s
  rw [hends s (.refl i s)] at h
  rw [hends s' hsrc] at h'
  rw [← Host.Outcome.next.inj h, ← Host.Outcome.next.inj h']
  cases r with
  | ok ws =>
    refine ⟨by simp [Except.map, afterCommand], fun _ d hd => ?_⟩
    have hsame : SameAt (s.applyAll ws) (s'.applyAll ws) d := applyAll_sameAt ws (.inl (hplaces ws rfl ▸ hd))
    exact ((recordLeak_sameAt ..).trans hsame).trans (recordLeak_sameAt ..).symm
  | error f => exact ⟨by simp [Except.map, afterCommand], fun hnone => by simp [Except.map, afterCommand] at hnone⟩

/-! ### Canonical results -/

theorem canonicalA_geToReg (a : Ge) : CanonicalA (geToReg a) := by
  cases h : a.inf
  · simp [CanonicalA, CanonicalF, geToReg, h, feToRaw_lt]
  · simp [CanonicalA, CanonicalF, geToReg, h, p_pos]

theorem canonicalJ_gejToReg (a : Gej) : CanonicalJ (gejToReg a) := by
  cases h : a.inf
  · simp [CanonicalJ, CanonicalF, gejToReg, h, feToRaw_lt]
  · simp [CanonicalJ, CanonicalF, gejToReg, h, p_pos]

theorem apply_canonicalAt (s : State) (w : Write) : CanonicalAt (s.apply w) w.place := by
  cases w with
  | s i v => simpa [Write.place, State.apply, CanonicalAt, CanonicalS] using scToRaw_lt v
  | f i v => simpa [Write.place, State.apply, CanonicalAt, CanonicalF] using feToRaw_lt v
  | a i v => simpa [Write.place, State.apply, CanonicalAt] using canonicalA_geToReg v
  | j i v => simpa [Write.place, State.apply, CanonicalAt] using canonicalJ_gejToReg v
  | t i v => simpa [Write.place, State.apply, CanonicalAt] using ⟨feToRaw_lt v.x, feToRaw_lt v.y⟩
  | _ => trivial

theorem SameAt.canonicalAt {s t : State} {d : Place} (h : SameAt s t d) (ht : CanonicalAt t d) : CanonicalAt s d := by
  cases d with
  | s | f | a | j | t => rw [CanonicalAt] at ht ⊢; exact (show _ = _ from h) ▸ ht
  | _ => trivial

/-- Whatever a list of writes writes is canonical, since the last write to a place is. -/
theorem applyAll_canonicalAt (s : State) {d : Place} (ws : List Write) (h : d ∈ ws.map Write.place) :
    CanonicalAt (s.applyAll ws) d := by
  induction ws generalizing s with
  | nil => exact absurd h List.not_mem_nil
  | cons w rest ih =>
    by_cases hrest : d ∈ rest.map Write.place
    · exact ih (s.apply w) hrest
    · have hd : d = w.place := (List.mem_cons.1 h).resolve_right hrest
      exact (applyAll_frame (s.apply w) rest hrest).canonicalAt (hd ▸ apply_canonicalAt s w)

/-- Settles O16: every list of writes is canonical at its places. -/
theorem resultsAreCanonical : Obligations.ResultsAreCanonical := by
  unfold Obligations.ResultsAreCanonical
  intro i s t h hnone d hd
  rcases exec_cases h with ⟨ws, tr, hplaces, rfl⟩ | ⟨f, tr, rfl⟩
  · exact (recordLeak_sameAt ..).canonicalAt (applyAll_canonicalAt s ws (hplaces ▸ hd))
  · simp at hnone

end Sys2Proof.Machine
end

section
/-! PROOFS. The machine invariant holds at reset and every step keeps it: what a command can leave in a context slot,
and the counts of the wNAF encoder (10_state.md R38, R42, R46; 44_generator.md R272; 60_exceptions.md R331). -/

namespace Sys2Proof.Machine

/-! ### What a step can leave in a context slot (44_generator.md R272, 45_dual_mul.md R300) -/

/-- What a command can leave in generator slot `c`, the slots having held `old`. -/
inductive GenSlotNext (old : Vector GenCtx Config.ngctx) (c : GSlot) : GenCtx → Prop where
  | copied (c' : GSlot) : GenSlotNext old c old[c']
  | unbuilt : GenSlotNext old c .unbuilt
  | justBuilt : GenSlotNext old c .justBuilt
  | reblinded (t : GenTable) (scale : Fe) (b : Sc) (ht : old[c].prec = some t) (hscale : scale.val ≠ 0)
      (hb : b.val ≠ 0) : GenSlotNext old c (reblind t old[c] scale b).1

/-- What a command can leave in a multiply slot, the slots having held `old`. -/
inductive MulSlotNext (old : Vector MulCtx Config.nmctx) : MulCtx → Prop where
  | copied (c' : MSlot) : MulSlotNext old old[c']
  | unbuilt : MulSlotNext old .unbuilt
  | justBuilt : MulSlotNext old .justBuilt

/-- A slot after a write to slot `cx` holds what was written there, or what it held. -/
theorem genSlotNext_set {old : Vector GenCtx Config.ngctx} {cx c : GSlot} {x : GenCtx}
    (h : GenSlotNext old cx x) : GenSlotNext old c (old.set cx x)[c] := by
  by_cases hc : cx = c
  · subst hc
    simpa using h
  · exact getElem_set_of_ne old x hc ▸ .copied c

theorem mulSlotNext_set {old : Vector MulCtx Config.nmctx} {cx c : MSlot} {x : MulCtx}
    (h : MulSlotNext old x) : MulSlotNext old (old.set cx x)[c] := by
  by_cases hc : cx = c
  · subst hc
    simpa using h
  · exact getElem_set_of_ne old x hc ▸ .copied c

theorem sampleBelow_pos {draw : Nat → Nat} {bound tries t u : Nat} {c : Fin bound}
    (h : sampleBelow draw bound tries t = (some c, u)) : c.val ≠ 0 := by
  rcases sampleBelow_spec draw bound tries t with ⟨v, -, -, -, hv, hs⟩ | ⟨-, hs⟩ <;> rw [hs] at h
  · obtain ⟨hc, -⟩ : some _ = some c ∧ _ := by simpa using h
    exact Option.some.inj hc ▸ hv.1.ne'
  · simp at h

/-- `GEN_BLIND` keeps nonzero candidates only (44_generator.md R266). -/
theorem blindDraws_ok {draw : Nat → Nat} {cap drawn : Nat} {scale : Fe} {b : Sc}
    (h : blindDraws draw cap = (.ok (scale, b), drawn)) : scale.val ≠ 0 ∧ b.val ≠ 0 := by
  unfold blindDraws at h
  split at h
  · simp at h
  next scale' t hscale =>
  split at h
  · simp at h
  next b' t' hb =>
  obtain ⟨⟨rfl, rfl⟩, -⟩ : (scale' = scale ∧ b' = b) ∧ _ := by simpa using h
  exact ⟨sampleBelow_pos hscale, sampleBelow_pos hb⟩

theorem exec_gctx {i : Instr} {s t : State} (h : exec i s = .next t) (c : GSlot) :
    GenSlotNext s.gctx c t.gctx[c] := by
  cases i with
  | genBuild cx =>
    simp only [exec, execGenBuild, finish_ok] at h
    rw [← Host.Outcome.next.inj h, State.recordLeak_gctx]
    split
    · exact .copied c
    · exact genSlotNext_set .justBuilt
  | genClone cx cs =>
    simp only [exec, execGenClone, finish_ok] at h
    rw [← Host.Outcome.next.inj h, State.recordLeak_gctx]
    exact genSlotNext_set (.copied cs)
  | genClear cx =>
    simp only [exec, execGenClear, finish_ok] at h
    rw [← Host.Outcome.next.inj h, State.recordLeak_gctx]
    exact genSlotNext_set .unbuilt
  | genBlind cx =>
    simp only [exec, execGenBlind, blindWith] at h
    split at h
    · rw [← Host.Outcome.next.inj h]
      simpa [afterCommand] using GenSlotNext.copied c
    next tbl htbl =>
    split at h
    · rw [← Host.Outcome.next.inj h]
      simpa [afterCommand] using GenSlotNext.copied c
    next scale b drawn hd =>
    rw [← Host.Outcome.next.inj h, afterCommand, State.recordLeak_gctx]
    obtain ⟨hscale, hb⟩ := blindDraws_ok hd
    exact genSlotNext_set (.reblinded tbl scale b ((GenCtx.table_ok_iff _ _).1 htbl) hscale hb)
  | _ =>
    have hkeep : t.gctx[c] = s.gctx[c] := exec_frame (.gctx c) h (by simp [destinations])
    exact hkeep ▸ .copied c

theorem exec_mctx {i : Instr} {s t : State} (h : exec i s = .next t) (c : MSlot) : MulSlotNext s.mctx t.mctx[c] := by
  cases i with
  | mulBuild cx =>
    simp only [exec, execMulBuild, finish_ok] at h
    rw [← Host.Outcome.next.inj h, State.recordLeak_mctx]
    split
    · exact .copied c
    · exact mulSlotNext_set .justBuilt
  | mulClone cx cs =>
    simp only [exec, execMulClone, finish_ok] at h
    rw [← Host.Outcome.next.inj h, State.recordLeak_mctx]
    exact mulSlotNext_set (.copied cs)
  | mulClear cx =>
    simp only [exec, execMulClear, finish_ok] at h
    rw [← Host.Outcome.next.inj h, State.recordLeak_mctx]
    exact mulSlotNext_set .unbuilt
  | _ =>
    have hkeep : t.mctx[c] = s.mctx[c] := exec_frame (.mctx c) h (by simp [destinations])
    exact hkeep ▸ .copied c

theorem resetOf_gctx (static : Bool) (c : GSlot) :
    (State.resetOf static).gctx[c] = if static then .justBuilt else .unbuilt := by
  simp [State.resetOf]

theorem resetOf_mctx (static : Bool) (c : MSlot) :
    (State.resetOf static).mctx[c] = if static then .justBuilt else .unbuilt := by
  simp [State.resetOf]

/-! ### An invariant of the part of the state that only commands and resets write -/

/-- Two states agree on everything but the registers the host can write, the leak and the model's own fields. -/
structure SameInternal (s t : State) : Prop where
  fault : t.fault = s.fault
  faultInfo : t.faultInfo = s.faultInfo
  wBuf : t.wBuf = s.wBuf
  retval : t.retval = s.retval
  gctx : t.gctx = s.gctx
  mctx : t.mctx = s.mctx

theorem storeReg_sameInternal (s : State) (r : HostReg) (w : Word) : SameInternal s (storeReg s r w) := by
  cases r <;> exact ⟨rfl, rfl, rfl, rfl, rfl, rfl⟩

/-- What no host write can touch, every legal and every illegal command keeps, and every reset establishes, every step
keeps. -/
theorem step_keeps (P : State → Prop) (hhost : ∀ {s t}, SameInternal s t → P s → P t)
    (hexec : ∀ {i s t}, exec i s = .next t → P s → P t) (hillegal : ∀ {s} (w : Word), P s → P (s.takeIllegal w))
    (hreset : ∀ s : State, P s.resetBlock) {s t : State} (hs : P s) (h : step s = .next t) : P t := by
  have hanswered (rest : List HostAccess) (r : Response) : P { s with host := rest, response := r } :=
    hhost (show SameInternal s _ from ⟨rfl, rfl, rfl, rfl, rfl, rfl⟩) hs
  rcases step_cases h with ⟨-, rfl⟩ | ⟨a, rest, -, hread | hwrite | ⟨-, rfl⟩⟩
  · exact hs
  · obtain ⟨width, offset, -, ⟨-, rfl⟩ | ⟨r, -, rfl⟩⟩ := hread <;> exact hanswered ..
  · obtain ⟨width, offset, w, -, ⟨-, rfl⟩ | ⟨-, hcmd⟩ | ⟨-, rfl⟩ | ⟨r, -, -, -, rfl⟩⟩ := hwrite
    · exact hanswered ..
    · rcases cmdWrite_cases w { s with host := rest, response := .accepted } with ⟨-, hw⟩ | ⟨-, -, hw⟩ | ⟨-, i, -, hw⟩
      · exact Host.Outcome.next.inj (hw.symm.trans hcmd) ▸ hanswered ..
      · exact Host.Outcome.next.inj (hw.symm.trans hcmd) ▸ hillegal w (hanswered ..)
      · exact hexec (hw.symm.trans hcmd) (hanswered ..)
    · unfold ctrlWrite
      split
      · exact hreset _
      · exact hanswered ..
    · split
      · exact hanswered ..
      · exact hhost (storeReg_sameInternal ..) (hanswered ..)
  · exact hreset _

/-! ### The counts of the wNAF encoder (10_state.md R38, 43_wnaf.md R240) -/

theorem wnafLoop_count_le (a : Nat) (sign : Int) (w len fuel bit carry : Nat) (out : DigitStream)
    (hout : out.count ≤ len) : (wnafLoop a sign w len fuel bit carry out).1.count ≤ len := by
  induction fuel generalizing bit carry out with
  | zero => exact hout
  | succ fuel ih =>
    rw [wnafLoop]
    split
    · split
      · exact ih _ _ _ hout
      · exact ih _ _ _ (by assumption)
    · exact hout

theorem wnafEncode_count_le {a : Sc} {w len : Nat} {d : DigitStream} (h : wnafEncode a w len = .ok d) :
    d.count ≤ len := by
  unfold wnafEncode at h
  extract_lets negative a' sign at h
  have hle : (wnafLoop a' sign w len len 0 0 DigitStream.empty).1.count ≤ len :=
    wnafLoop_count_le _ _ _ _ _ _ _ _ (Nat.zero_le len)
  split at h
  next out carry hloop =>
  split at h
  · simp at h
  · rw [hloop] at hle
    exact Except.ok.inj h ▸ hle

/-! ### The machine invariant -/

@[simp] theorem GenCtx.prec_unbuilt : GenCtx.unbuilt.prec = none := rfl

@[simp] theorem GenCtx.prec_justBuilt : GenCtx.justBuilt.prec = some genTable := rfl

@[simp] theorem MulCtx.preG_justBuilt : MulCtx.justBuilt.preG = some mulTable := rfl

@[simp] theorem reblind_prec (t : GenTable) (ctx : GenCtx) (scale : Fe) (b : Sc) :
    (reblind t ctx scale b).1.prec = ctx.prec := by
  simp only [reblind]

theorem GenCtx.sound_justBuilt : GenCtx.justBuilt.Sound := .inr GenCtx.prec_justBuilt

theorem MulCtx.sound_justBuilt : MulCtx.justBuilt.Sound := .inr MulCtx.preG_justBuilt

theorem GenCtx.Sound.next {old : Vector GenCtx Config.ngctx} {c : GSlot} {x : GenCtx}
    (hold : ∀ c : GSlot, old[c].Sound) (h : GenSlotNext old c x) : x.Sound := by
  cases h with
  | copied c' => exact hold c'
  | unbuilt => exact .inl rfl
  | justBuilt => exact GenCtx.sound_justBuilt
  | reblinded t scale b ht =>
    rcases hold c with hunbuilt | hprec
    · rw [hunbuilt] at ht
      simp at ht
    · exact .inr ((reblind_prec ..).trans hprec)

theorem MulCtx.Sound.next {old : Vector MulCtx Config.nmctx} {x : MulCtx}
    (hold : ∀ c : MSlot, old[c].Sound) (h : MulSlotNext old x) : x.Sound := by
  cases h with
  | copied c' => exact hold c'
  | unbuilt => exact .inl rfl
  | justBuilt => exact MulCtx.sound_justBuilt

/-- The counts a state holds are at most 256 (10_state.md R38, R42). -/
def State.CountsOk (s : State) : Prop := (∀ b : WSel, s.wBuf[b].bits.toNat ≤ 256) ∧ s.retval.toNat ≤ 256

theorem exec_countsOk {i : Instr} {s t : State} (h : exec i s = .next t) (hs : s.CountsOk) : t.CountsOk := by
  obtain ⟨hbits, hretval⟩ := hs
  cases i with
  | wnaf rd ra w len =>
    simp only [exec, execWnaf] at h
    split at h
    · rw [← Host.Outcome.next.inj h]
      exact ⟨by simpa [afterCommand] using hbits, by simpa [afterCommand] using hretval⟩
    next hparam =>
    split at h
    · next d hd =>
      have hcount : (BitVec.ofNat 9 d.count).toNat ≤ 256 := by
        have := wnafEncode_count_le hd
        rw [BitVec.toNat_ofNat]
        omega
      rw [← Host.Outcome.next.inj h]
      refine ⟨fun b => ?_, by simpa [afterCommand] using hcount⟩
      by_cases hb : rd = b
      · subst hb
        simpa [afterCommand, DigitStream.toBuf] using hcount
      · simpa [afterCommand, getElem_set_of_ne _ _ hb] using hbits b
    · rw [← Host.Outcome.next.inj h]
      exact ⟨by simpa [afterCommand] using hbits, by simpa [afterCommand] using hretval⟩
  | _ =>
    refine ⟨fun b => ?_, ?_⟩
    · have hkeep : t.wBuf[b] = s.wBuf[b] := exec_frame (.w b) h (by simp [destinations])
      exact hkeep ▸ hbits b
    · have hkeep : t.retval = s.retval := exec_frame .retval h (by simp [destinations])
      exact hkeep ▸ hretval

theorem exec_inv {i : Instr} {s t : State} (h : exec i s = .next t) (hs : s.Inv) : t.Inv := by
  obtain ⟨hbits, hretval⟩ := exec_countsOk h ⟨hs.bitsRange, hs.retvalRange⟩
  have hgen (c : GSlot) : t.gctx[c].Sound := .next hs.genSound (exec_gctx h c)
  have hmul (c : MSlot) : t.mctx[c].Sound := .next hs.mulSound (exec_mctx h c)
  rcases exec_cases h with ⟨ws, tr, -, rfl⟩ | ⟨f, tr, rfl⟩
  · obtain ⟨hfault, hinfo⟩ := applyAll_fault s ws
    exact ⟨by simpa [hfault, hinfo] using hs.infoOfNoFault, by simpa [hfault, hinfo] using hs.codeOfFault,
      hbits, hretval, hgen, hmul⟩
  · exact ⟨by simp, by simpa using f.code_range, hbits, hretval, hgen, hmul⟩

theorem State.Inv.of_sameInternal {s t : State} (h : SameInternal s t) (hs : s.Inv) : t.Inv where
  infoOfNoFault := by simpa only [h.fault, h.faultInfo] using hs.infoOfNoFault
  codeOfFault := by simpa only [h.fault, h.faultInfo] using hs.codeOfFault
  bitsRange := by simpa only [h.wBuf] using hs.bitsRange
  retvalRange := by simpa only [h.retval] using hs.retvalRange
  genSound := by simpa only [h.gctx] using hs.genSound
  mulSound := by simpa only [h.mctx] using hs.mulSound

theorem takeIllegal_inv {s : State} (w : Word) (hs : s.Inv) : (s.takeIllegal w).Inv where
  infoOfNoFault := by simp
  codeOfFault := by simp
  bitsRange := hs.bitsRange
  retvalRange := hs.retvalRange
  genSound := hs.genSound
  mulSound := hs.mulSound

theorem resetOf_inv (static : Bool) : (State.resetOf static).Inv where
  infoOfNoFault _ := rfl
  codeOfFault h := by simp [State.resetOf] at h
  bitsRange b := by simp [State.resetOf]
  retvalRange := by simp [State.resetOf]
  genSound c := by
    rw [resetOf_gctx]
    cases static
    · exact .inl rfl
    · exact .inr rfl
  mulSound c := by
    rw [resetOf_mctx]
    cases static
    · exact .inl rfl
    · exact .inr rfl

theorem resetBlock_inv (s : State) : s.resetBlock.Inv :=
  .of_sameInternal (show SameInternal (State.resetOf s.staticPrecomp) _ from ⟨rfl, rfl, rfl, rfl, rfl, rfl⟩)
    (resetOf_inv _)

/-- Settles O17: `State.reset` is one of the two reset states, and each has the invariant field by field. -/
theorem invariantHoldsAtReset : Obligations.InvariantHoldsAtReset :=
  ⟨resetOf_inv Config.staticPrecomp, resetOf_inv⟩

/-- Settles O18: `step_keeps` leaves the commands, the illegal words and the resets, each with its own lemma. -/
theorem stepKeepsInvariant : Obligations.StepKeepsInvariant := by
  unfold Obligations.StepKeepsInvariant
  intro s t hs h
  exact step_keeps State.Inv State.Inv.of_sameInternal exec_inv takeIllegal_inv resetBlock_inv hs h

end Sys2Proof.Machine
end

section
/-! PROOFS. The register map read word by word, and what a reset leaves (20_memory.md R81, R84; 10_state.md R44 to R49,
R52, R57). -/
namespace Sys2Proof.Machine

/-! ### Every mapped offset names its word (20_memory.md R81) -/

theorem ofNat_eq_of_val {k v : Nat} [NeZero k] (i : Fin k) (h : v = i.val) : Fin.ofNat k v = i :=
  h ▸ Fin.ofNat_val_eq_self i

theorem wordIndex_eq {o : Nat} (k : Fin 8) (h : o = 4 * k.val) : wordIndex o = k := ofNat_eq_of_val k (by omega)

theorem locateA_x (i : ASel) (k : Fin 8) : locateA i (4 * k) = some (.aX i k) := by
  rw [locateA, if_pos (by omega), wordIndex_eq k rfl]

theorem locateA_y (i : ASel) (k : Fin 8) : locateA i (0x20 + 4 * k) = some (.aY i k) := by
  rw [locateA, if_neg (by omega), if_pos (by omega), wordIndex_eq k (by omega)]

theorem locateJ_x (i : JSel) (k : Fin 8) : locateJ i (4 * k) = some (.jX i k) := by
  rw [locateJ, if_pos (by omega), wordIndex_eq k rfl]

theorem locateJ_y (i : JSel) (k : Fin 8) : locateJ i (0x20 + 4 * k) = some (.jY i k) := by
  rw [locateJ, if_neg (by omega), if_pos (by omega), wordIndex_eq k (by omega)]

theorem locateJ_z (i : JSel) (k : Fin 8) : locateJ i (0x40 + 4 * k) = some (.jZ i k) := by
  rw [locateJ, if_neg (by omega), if_neg (by omega), if_pos (by omega), wordIndex_eq k (by omega)]

theorem locateT_x (i : TSel) (k : Fin 8) : locateT i (4 * k) = .tX i k := by
  rw [locateT, if_pos (by omega), wordIndex_eq k rfl]

theorem locateT_y (i : TSel) (k : Fin 8) : locateT i (0x20 + 4 * k) = .tY i k := by
  rw [locateT, if_neg (by omega), wordIndex_eq k (by omega)]

theorem locate_seed (k : Fin 8) : locate (0x20 + 4 * k) = some (.seed k) := by
  rw [locate, if_neg (by omega), if_pos (by omega), wordIndex_eq k (by omega)]

theorem locate_s (i : SSel) (k : Fin 8) : locate (0x100 + 0x20 * i + 4 * k) = some (.s i k) := by
  rw [locate, if_neg (by omega), if_neg (by omega), if_neg (by omega), if_pos (by omega), wordIndex_eq k (by omega),
    ofNat_eq_of_val i (by omega)]

theorem locate_f (i : FSel) (k : Fin 8) : locate (0x200 + 0x20 * i + 4 * k) = some (.f i k) := by
  rw [locate, if_neg (by omega), if_neg (by omega), if_neg (by omega), if_neg (by omega), if_pos (by omega),
    wordIndex_eq k (by omega), ofNat_eq_of_val i (by omega)]

theorem locate_a (i : ASel) {offset o : Nat} (h : offset = 0x400 + 0x80 * i + o) (ho : o < 0x80) :
    locate offset = locateA i o := by
  rw [locate, if_neg (by omega), if_neg (by omega), if_neg (by omega), if_neg (by omega), if_neg (by omega),
    if_neg (by omega), if_pos (by omega), ofNat_eq_of_val i (by omega),
    show (offset - 0x400) % 0x80 = o by omega]

theorem locate_j (i : JSel) {offset o : Nat} (h : offset = 0x800 + 0x80 * i + o) (ho : o < 0x80) :
    locate offset = locateJ i o := by
  rw [locate, if_neg (by omega), if_neg (by omega), if_neg (by omega), if_neg (by omega), if_neg (by omega),
    if_neg (by omega), if_neg (by omega), if_pos (by omega), ofNat_eq_of_val i (by omega),
    show (offset - 0x800) % 0x80 = o by omega]

theorem locate_t (i : TSel) {offset o : Nat} (h : offset = 0xC00 + 0x40 * i + o) (ho : o < 0x40) :
    locate offset = some (locateT i o) := by
  rw [locate, if_neg (by omega), if_neg (by omega), if_neg (by omega), if_neg (by omega), if_neg (by omega),
    if_neg (by omega), if_neg (by omega), if_neg (by omega), if_pos (by omega), ofNat_eq_of_val i (by omega),
    show (offset - 0xC00) % 0x40 = o by omega]

theorem locate_wDigit (b : WSel) (i : Fin 256) : locate (0x1000 + 0x400 * b + 4 * i) = some (.wDigit b i) := by
  rw [locate, if_neg (by omega), if_neg (by omega), if_neg (by omega), if_neg (by omega), if_neg (by omega),
    if_neg (by omega), if_neg (by omega), if_neg (by omega), if_neg (by omega), if_neg (by omega), if_pos (by omega),
    ofNat_eq_of_val b (by omega), ofNat_eq_of_val i (by omega)]

theorem locate_wBits (b : WSel) : locate (0x1800 + 4 * b) = some (.wBits b) := by
  revert b; decide

/-- Every word stands at its offset. -/
theorem locate_offset (r : HostReg) : locate r.offset = some r := by
  cases r with
  | seed k => exact locate_seed k
  | s i k => exact locate_s i k
  | f i k => exact locate_f i k
  | aX i k => exact (locate_a i rfl (by omega)).trans (locateA_x i k)
  | aY i k => exact (locate_a i (Nat.add_assoc ..) (by omega)).trans (locateA_y i k)
  | aInf i => exact (locate_a i rfl (by omega)).trans rfl
  | jX i k => exact (locate_j i rfl (by omega)).trans (locateJ_x i k)
  | jY i k => exact (locate_j i (Nat.add_assoc ..) (by omega)).trans (locateJ_y i k)
  | jZ i k => exact (locate_j i (Nat.add_assoc ..) (by omega)).trans (locateJ_z i k)
  | jInf i => exact (locate_j i rfl (by omega)).trans rfl
  | tX i k => exact (locate_t i rfl (by omega)).trans (congrArg _ (locateT_x i k))
  | tY i k => exact (locate_t i (Nat.add_assoc ..) (by omega)).trans (congrArg _ (locateT_y i k))
  | wDigit b i => exact locate_wDigit b i
  | wBits b => exact locate_wBits b
  | _ => rfl

theorem offset_lt (r : HostReg) : r.offset < 2 ^ 13 ∧ r.offset % 4 = 0 := by
  cases r with
  | cmd | status | faultInfo | ctxStat | tflag | retval | ctrl | cfg => decide
  | _ =>
    simp only [HostReg.offset]
    omega

theorem target_offset (r : HostReg) : target 32 (BitVec.ofNat 13 r.offset) = some r := by
  obtain ⟨hlt, haligned⟩ := offset_lt r
  rw [target_some_iff, BitVec.toNat_ofNat, Nat.mod_eq_of_lt hlt]
  exact ⟨rfl, haligned, locate_offset r⟩

/-- A read at a word's offset returns the word, whatever way offset and content are written. -/
theorem reads_reg {s : State} {offset : Nat} {w : Word} (r : HostReg) (ho : offset = r.offset) (hw : w = loadReg s r) :
    Reads s offset w :=
  ho ▸ hw ▸ reads_of_target (target_offset r) s

/-! ### The control registers as numbers (10_state.md R44 to R47) -/

theorem faultInfo_word (code op : Byte) :
    BitVec.ofNat 32 (code.toNat + 2 ^ 8 * op.toNat) = code.zeroExtend 32 ||| (op.zeroExtend 32 <<< 8) := by
  have hcode := code.isLt
  have hop := op.isLt
  apply BitVec.eq_of_toNat_eq
  have hor : op.toNat <<< 8 + code.toNat = op.toNat <<< 8 ||| code.toNat := Nat.shiftLeft_add_eq_or_of_lt hcode _
  simp only [BitVec.toNat_ofNat, BitVec.toNat_or, BitVec.zeroExtend_eq_setWidth, BitVec.toNat_setWidth,
    BitVec.toNat_shiftLeft]
  rw [Nat.mod_eq_of_lt (show code.toNat < 2 ^ 32 by omega), Nat.mod_eq_of_lt (show op.toNat < 2 ^ 32 by omega),
    Nat.mod_eq_of_lt (show op.toNat <<< 8 < 2 ^ 32 by omega), Nat.or_comm, ← hor, Nat.mod_eq_of_lt (by omega),
    Nat.shiftLeft_eq]
  omega

theorem toList_pair {α : Type} (v : Vector α 2) : v.toList = [v[0], v[1]] := by
  apply List.ext_getElem (by simp)
  intro k hk _
  have hk2 : k < 2 := by simpa using hk
  interval_cases k <;> simp

theorem ctxStat_word (s : State) :
    BitVec.ofNat 32
      ((if s.gctx[0].built then 1 else 0) + (if s.gctx[1].built then 2 else 0) +
        (if s.mctx[0].built then 2 ^ 16 else 0) + (if s.mctx[1].built then 2 ^ 17 else 0)) = ctxStatWord s := by
  have hbit (b : Bool) (k : Nat) : (if b then k else 0) = b.toNat * k := by cases b <;> simp
  simp only [ctxStatWord, toList_pair, List.map, List.foldr, hbit]
  congr 1
  ring

/-- Settles O21: each statement is the read of one word of the map. -/
theorem hostReadsReturnTheMappedWords : Obligations.HostReadsReturnTheMappedWords := by
  unfold Obligations.HostReadsReturnTheMappedWords
  intro s
  refine ⟨reads_reg .cmd rfl rfl, reads_reg .status rfl rfl, reads_reg .faultInfo rfl (faultInfo_word _ _),
    reads_reg .ctxStat rfl (ctxStat_word s), reads_reg .tflag rfl rfl, reads_reg .retval rfl (BitVec.ofNat_toNat ..),
    reads_reg .ctrl rfl rfl, cfg_reads s, fun k => reads_reg (.seed k) rfl rfl, fun i k => reads_reg (.s i k) rfl rfl,
    fun i k => reads_reg (.f i k) rfl rfl, fun i k => reads_reg (.aX i k) rfl rfl,
    fun i k => reads_reg (.aY i k) ?_ rfl, fun i => reads_reg (.aInf i) ?_ rfl,
    fun i k => reads_reg (.jX i k) rfl rfl, fun i k => reads_reg (.jY i k) ?_ rfl,
    fun i k => reads_reg (.jZ i k) ?_ rfl, fun i => reads_reg (.jInf i) ?_ rfl,
    fun i k => reads_reg (.tX i k) rfl rfl, fun i k => reads_reg (.tY i k) ?_ rfl,
    fun b i => reads_reg (.wDigit b i) rfl rfl, fun b => reads_reg (.wBits b) rfl (BitVec.ofNat_toNat ..)⟩
  all_goals
    simp only [HostReg.offset]
    omega

/-! ### Reset (10_state.md R48, R57; 70_reset_and_hazards.md R370) -/

/-- A `CTRL` write with bit 0 clear changes nothing. -/
theorem writes_ctrl_clear (s : State) {w : Word} (hw : w.getLsbD 0 = false) : Writes s 0x18 w s := by
  intro rest
  have htarget : target 32 (BitVec.ofNat 13 0x18) = some .ctrl := target_ctrl
  simp only [step, takeAccess, hostAccess, hostWrite, htarget, ctrlWrite, lowBit, hw, Bool.false_eq_true, if_false]
  rfl

/-- Settles O8: the resets by `step_of_resetComesNext`, the two accesses to `CTRL` by their one arm of the host port. -/
theorem resetWorksInEveryState : Obligations.ResetWorksInEveryState := by
  unfold Obligations.ResetWorksInEveryState
  refine ⟨fun s t hr h => ?_, fun s w => writes_ctrl_clear s, fun s => reads_reg .ctrl rfl rfl⟩
  obtain ⟨rest, rfl⟩ := step_of_resetComesNext hr h
  rfl

theorem ctxStatWord_resetOf (static : Bool) :
    ctxStatWord (State.resetOf static) = if static then 0x00030003 else 0 := by
  cases static
  · rfl
  · exact ctxStatWord_justBuilt rfl rfl

/-- Settles O7: the registers by the definition of the reset state, `CFG` and `CTXSTAT` by a read of them. -/
theorem resetValues : Obligations.ResetValues := by
  unfold Obligations.ResetValues
  refine ⟨rfl, fun static => ⟨fun i => ?_, fun i => ?_, fun i => ?_, fun i => ?_, fun i => ?_, fun b i => ?_,
    fun b => ?_, rfl, rfl, rfl, rfl, rfl, resetOf_gctx static, resetOf_mctx static, rfl, cfg_reads _,
    reads_reg .ctxStat rfl (ctxStatWord_resetOf static).symm⟩⟩
  all_goals simp [State.resetOf]

end Sys2Proof.Machine
end

section
/-! PROOFS. The block's point formulas follow the group law of the curve (00_scope.md R15; 41_group_add.md R190, R196,
R197, R200): doubling, the general addition and the unified addition. -/

namespace Sys2Proof.Machine

/-! ### The identity as a Jacobian value (00_scope.md R15) -/

theorem jinf_standsFor : JINF.StandsFor (0 : Point) := .inl ⟨rfl, rfl⟩

theorem Gej.standsFor_zero {a : Gej} (h : a.inf = true) {P : Point} : a.StandsFor P ↔ P = 0 := by
  simp only [Gej.StandsFor, h, true_and, Bool.true_eq_false, false_and, or_false]
  rfl

/-- A value that does not stand for the identity is finite. -/
theorem Gej.StandsFor.finite {a : Gej} {P : Point} (h : a.StandsFor P) (hP : P ≠ 0) : a.inf = false := by
  rcases h with ⟨-, rfl⟩ | ⟨hinf, -⟩
  · exact absurd rfl hP
  · exact hinf

variable [Fact (Nat.Prime Config.p)]

/-! ### The curve over the field of `p` elements (00_scope.md R9) -/

theorem curve_equation_iff (x y : ZMod Config.p) : curve.Equation x y ↔ y ^ 2 = x ^ 3 + 7 := by
  rw [WeierstrassCurve.Affine.equation_iff]
  simp [curve, Config.b]

@[simp] theorem curve_negY (x y : ZMod Config.p) : curve.negY x y = -y := by
  simp [WeierstrassCurve.Affine.negY, curve]

theorem two_ne_zero_mod_p : (2 : ZMod Config.p) ≠ 0 := by
  rw [← Nat.cast_ofNat, Ne, ZMod.natCast_eq_zero_iff]
  decide

theorem seven_ne_zero_mod_p : (7 : ZMod Config.p) ≠ 0 := by
  rw [← Nat.cast_ofNat, Ne, ZMod.natCast_eq_zero_iff]
  decide

/-- `-7` is no cube: its power `(p - 1) / 3` is not 1. -/
theorem neg_seven_pow_ne_one : (-7 : ZMod Config.p) ^ ((Config.p - 1) / 3) ≠ 1 := by
  have hpow : powMod Config.p (Config.p - 7) ((Config.p - 1) / 3) ≠ 1 % Config.p := by decide +kernel
  have hcast : ((Config.p - 7 : Nat) : ZMod Config.p) = -7 := by
    rw [Nat.cast_sub (by decide), ZMod.natCast_self, zero_sub, Nat.cast_ofNat]
  rw [powMod_eq _ _ _ (by decide)] at hpow
  exact fun h => hpow ((ZMod.natCast_eq_natCast_iff' _ _ _).1 (by rw [Nat.cast_pow, hcast, h, Nat.cast_one]))

/-- No point of the curve has order 2. -/
theorem y_ne_zero {x y : ZMod Config.p} (h : curve.Equation x y) : y ≠ 0 := by
  rintro rfl
  have hcube : x ^ 3 = -7 := by linear_combination -(curve_equation_iff x 0).1 h
  have hx : x ≠ 0 := by
    rintro rfl
    exact seven_ne_zero_mod_p (by linear_combination hcube)
  refine neg_seven_pow_ne_one ?_
  rw [← hcube, ← pow_mul, show 3 * ((Config.p - 1) / 3) = Config.p - 1 by decide]
  exact ZMod.pow_card_sub_one_eq_one hx

/-- The sum of two finite points by the slope `l` of the line through them, given by either form of the slope. -/
theorem some_add_some {x₁ y₁ x₂ y₂ : ZMod Config.p} (l : ZMod Config.p) (h₁ : curve.Nonsingular x₁ y₁)
    (h₂ : curve.Nonsingular x₂ y₂)
    (hl : (x₁ ≠ x₂ ∧ l * (x₁ - x₂) = y₁ - y₂) ∨
      (y₁ + y₂ ≠ 0 ∧ l * (y₁ + y₂) = x₁ ^ 2 + x₁ * x₂ + x₂ ^ 2)) :
    ∃ h, (.some x₁ y₁ h₁ + .some x₂ y₂ h₂ : Point) =
      .some (l ^ 2 - x₁ - x₂) (l * (x₁ - (l ^ 2 - x₁ - x₂)) - y₁) h := by
  have e₁ := (curve_equation_iff x₁ y₁).1 h₁.1
  have e₂ := (curve_equation_iff x₂ y₂).1 h₂.1
  have hne : ¬ (x₁ = x₂ ∧ y₁ = curve.negY x₂ y₂) := by
    rintro ⟨hx, hy⟩
    rw [curve_negY] at hy
    exact hl.elim (fun h => h.1 hx) fun h => h.1 (by rw [hy]; ring)
  have hslope : curve.slope x₁ x₂ y₁ y₂ = l := by
    by_cases hx : x₁ = x₂
    · obtain ⟨hy, hl⟩ := hl.resolve_left fun h => h.1 hx
      have hyy : y₁ = y₂ := by
        subst hx
        have : (y₁ - y₂) * (y₁ + y₂) = 0 := by linear_combination e₁ - e₂
        exact sub_eq_zero.1 ((mul_eq_zero.1 this).resolve_right hy)
      subst hx hyy
      rw [WeierstrassCurve.Affine.slope_of_Y_ne rfl fun h => hne ⟨rfl, h⟩, curve_negY, sub_neg_eq_add,
        div_eq_iff hy, hl]
      simp [curve]
      ring
    · have hx' : x₁ - x₂ ≠ 0 := sub_ne_zero.2 hx
      rw [WeierstrassCurve.Affine.slope_of_X_ne hx, div_eq_iff hx']
      rcases hl with ⟨-, hl⟩ | ⟨hy, hl⟩
      · exact hl.symm
      · apply mul_right_cancel₀ hy
        linear_combination e₁ - e₂ - (x₁ - x₂) * hl
  have hX : curve.addX x₁ x₂ l = l ^ 2 - x₁ - x₂ := by simp [WeierstrassCurve.Affine.addX, curve]
  have hY : curve.addY x₁ x₂ y₁ l = l * (x₁ - (l ^ 2 - x₁ - x₂)) - y₁ := by
    rw [WeierstrassCurve.Affine.addY, WeierstrassCurve.Affine.negAddY, curve_negY, hX]
    ring
  have hns := WeierstrassCurve.Affine.nonsingular_add h₁ h₂ hne
  rw [hslope, hX, hY] at hns
  refine ⟨hns, ?_⟩
  rw [WeierstrassCurve.Affine.Point.add_some hne]
  simp only [hslope, hX, hY]

/-- Two points with the same `x` are equal or opposite. -/
theorem y_eq_or_neg {x y₁ y₂ : ZMod Config.p} (h₁ : curve.Equation x y₁) (h₂ : curve.Equation x y₂) :
    y₁ = y₂ ∨ y₁ = -y₂ := by
  rw [← sq_eq_sq_iff_eq_or_eq_neg, (curve_equation_iff ..).1 h₁, (curve_equation_iff ..).1 h₂]

/-! ### What a Jacobian value stands for (00_scope.md R15) -/

/-- A finite value stands for the point whose coordinates, scaled by its `z`, it holds. -/
theorem standsFor_some {a : Gej} {x y : ZMod Config.p} {h : curve.Nonsingular x y} (hinf : a.inf = false)
    (hz : (a.z.val : ZMod Config.p) ≠ 0) (hx : x * (a.z.val : ZMod Config.p) ^ 2 = a.x.val)
    (hy : y * (a.z.val : ZMod Config.p) ^ 3 = a.y.val) : a.StandsFor (.some x y h) :=
  .inr ⟨hinf, fun e => hz ((Fe.cast_eq_zero _).2 e), x, y, h, rfl, hx, hy⟩

theorem Gej.StandsFor.exists_some {a : Gej} {P : Point} (h : a.StandsFor P) (hinf : a.inf = false) :
    (a.z.val : ZMod Config.p) ≠ 0 ∧ ∃ x y h, P = .some x y h ∧ x * (a.z.val : ZMod Config.p) ^ 2 = a.x.val ∧
      y * (a.z.val : ZMod Config.p) ^ 3 = a.y.val := by
  rcases h with ⟨ht, -⟩ | ⟨-, hz, hP⟩
  · simp [hinf] at ht
  · exact ⟨fun e => hz ((Fe.cast_eq_zero _).1 e), hP⟩

/-! ### Doubling (41_group_add.md R196) -/

theorem gejDouble_standsFor {a : Gej} {P : Point} (h : a.StandsFor P) : (gejDouble a).1.StandsFor (P + P) := by
  cases hinf : a.inf with
  | true =>
    rw [Gej.standsFor_zero hinf] at h
    simpa [gejDouble, hinf, h] using jinf_standsFor
  | false =>
    obtain ⟨hz, x, y, hns, rfl, hx, hy⟩ := h.exists_some hinf
    have hy0 : y ≠ 0 := y_ne_zero hns.1
    have h2y : y + y ≠ 0 := by
      rw [← two_mul]
      exact mul_ne_zero two_ne_zero_mod_p hy0
    obtain ⟨h', hsum⟩ := some_add_some (3 * x ^ 2 / (y + y)) hns hns
      (.inr ⟨h2y, by rw [div_mul_cancel₀ _ h2y]; ring⟩)
    rw [hsum]
    have hl : 3 * x ^ 2 / (y + y) * (y + y) = 3 * x ^ 2 := div_mul_cancel₀ _ h2y
    generalize 3 * x ^ 2 / (y + y) = l at hl h'
    refine standsFor_some ?_ ?_ ?_ ?_ <;>
      simp only [gejDouble, hinf, Bool.false_eq_true, if_false, fmulint_cast, fmul_cast, fsqr_cast, fsub_cast, ← hx,
        ← hy, Nat.cast_ofNat]
    · exact mul_ne_zero two_ne_zero_mod_p (mul_ne_zero (mul_ne_zero hy0 (pow_ne_zero _ hz)) hz)
    · linear_combination (a.z.val : ZMod Config.p) ^ 8 * (l * (y + y) + 3 * x ^ 2) * hl
    · linear_combination (a.z.val : ZMod Config.p) ^ 12 *
        (12 * x * y ^ 2 - (l * (y + y)) ^ 2 - l * (y + y) * (3 * x ^ 2) - (3 * x ^ 2) ^ 2) * hl

/-! ### The general addition (41_group_add.md R190, R197) -/

/-- `add_tail` on the two points brought to the common `w = z·zf`: it redirects for equal points, and else gives their
sum. -/
theorem addTail_standsFor (a : Gej) {u1 u2 s1 s2 zf : Fe} {x₁ y₁ x₂ y₂ w : ZMod Config.p}
    (h₁ : curve.Nonsingular x₁ y₁) (h₂ : curve.Nonsingular x₂ y₂) (hw : w = a.z.val * zf.val) (hw0 : w ≠ 0)
    (hu1 : (u1.val : ZMod Config.p) = x₁ * w ^ 2) (hu2 : (u2.val : ZMod Config.p) = x₂ * w ^ 2)
    (hs1 : (s1.val : ZMod Config.p) = y₁ * w ^ 3) (hs2 : (s2.val : ZMod Config.p) = y₂ * w ^ 3) :
    (addTail a u1 u2 s1 s2 zf = none ∧ x₁ = x₂ ∧ y₁ = y₂) ∨
    ∃ r, addTail a u1 u2 s1 s2 zf = some r ∧ r.1.StandsFor (.some x₁ y₁ h₁ + .some x₂ y₂ h₂) := by
  have hh : ((fsub u2 u1).val : ZMod Config.p) = (x₂ - x₁) * w ^ 2 := by rw [fsub_cast, hu1, hu2]; ring
  have hi : ((fsub s2 s1).val : ZMod Config.p) = (y₂ - y₁) * w ^ 3 := by rw [fsub_cast, hs1, hs2]; ring
  have hh0 : fiszero (fsub u2 u1) = true ↔ x₁ = x₂ := by
    rw [fiszero_iff, ← Fe.cast_eq_zero, hh, mul_eq_zero_iff_right (pow_ne_zero _ hw0), sub_eq_zero, eq_comm]
  have hi0 : fiszero (fsub s2 s1) = true ↔ y₁ = y₂ := by
    rw [fiszero_iff, ← Fe.cast_eq_zero, hi, mul_eq_zero_iff_right (pow_ne_zero _ hw0), sub_eq_zero, eq_comm]
  by_cases hx : x₁ = x₂
  · subst hx
    by_cases hy : y₁ = y₂
    · exact .inl ⟨by simp only [addTail, if_pos (hh0.2 rfl), if_pos (hi0.2 hy)], rfl, hy⟩
    · refine .inr ⟨(JINF, feOfNat 0), by simp only [addTail, if_pos (hh0.2 rfl), if_neg (mt hi0.1 hy)], ?_⟩
      have hneg : y₁ = curve.negY x₁ y₂ := by
        rw [curve_negY]
        exact (y_eq_or_neg h₁.1 h₂.1).resolve_left hy
      rw [WeierstrassCurve.Affine.Point.add_of_Y_eq rfl hneg]
      exact jinf_standsFor
  · have hx' : x₁ - x₂ ≠ 0 := sub_ne_zero.2 hx
    have hl : (y₁ - y₂) / (x₁ - x₂) * (x₁ - x₂) = y₁ - y₂ := div_mul_cancel₀ _ hx'
    obtain ⟨h', hsum⟩ := some_add_some _ h₁ h₂ (.inl ⟨hx, hl⟩)
    rw [hsum]
    generalize (y₁ - y₂) / (x₁ - x₂) = l at hl h'
    refine .inr ⟨_, by simp only [addTail, if_neg (mt hh0.1 hx)]; rfl, standsFor_some rfl ?_ ?_ ?_⟩ <;>
      simp only [fmulint_cast, fmul_cast, fsqr_cast, fsub_cast, hu1, hu2, hs1, hs2]
    · have hz : (a.z.val * ((x₂ * w ^ 2 - x₁ * w ^ 2) * zf.val) : ZMod Config.p) = -(x₁ - x₂) * w ^ 3 := by
        rw [hw]
        ring
      exact hz ▸ mul_ne_zero (neg_ne_zero.2 hx') (pow_ne_zero _ hw0)
    · rw [hw]
      linear_combination (a.z.val * zf.val : ZMod Config.p) ^ 6 * (l * (x₁ - x₂) + (y₁ - y₂)) * hl
    · rw [hw]
      linear_combination -(a.z.val * zf.val : ZMod Config.p) ^ 9 * ((2 * x₁ + x₂) * (x₁ - x₂) ^ 2 -
        (l * (x₁ - x₂)) ^ 2 - l * (x₁ - x₂) * (y₁ - y₂) - (y₁ - y₂) ^ 2) * hl

theorem gejAdd_standsFor {a b : Gej} {P Q : Point} (ha : a.StandsFor P) (hb : b.StandsFor Q) :
    (gejAdd a b).1.StandsFor (P + Q) := by
  cases hainf : a.inf with
  | true =>
    rw [Gej.standsFor_zero hainf] at ha
    simpa [gejAdd, hainf, ha] using hb
  | false =>
  cases hbinf : b.inf with
  | true =>
    rw [Gej.standsFor_zero hbinf] at hb
    simpa [gejAdd, hainf, hbinf, hb] using ha
  | false =>
  have hdouble := gejDouble_standsFor ha
  obtain ⟨hza, x₁, y₁, h₁, rfl, hx₁, hy₁⟩ := ha.exists_some hainf
  obtain ⟨hzb, x₂, y₂, h₂, rfl, hx₂, hy₂⟩ := hb.exists_some hbinf
  simp only [gejAdd, hainf, hbinf, Bool.false_eq_true, if_false]
  have hu1 : ((fmul a.x (fsqr b.z)).val : ZMod Config.p) = x₁ * (a.z.val * b.z.val) ^ 2 := by
    simp only [fmul_cast, fsqr_cast, ← hx₁]
    ring
  have hu2 : ((fmul b.x (fsqr a.z)).val : ZMod Config.p) = x₂ * (a.z.val * b.z.val) ^ 2 := by
    simp only [fmul_cast, fsqr_cast, ← hx₂]
    ring
  have hs1 : ((fmul (fmul a.y (fsqr b.z)) b.z).val : ZMod Config.p) = y₁ * (a.z.val * b.z.val) ^ 3 := by
    simp only [fmul_cast, fsqr_cast, ← hy₁]
    ring
  have hs2 : ((fmul (fmul b.y (fsqr a.z)) a.z).val : ZMod Config.p) = y₂ * (a.z.val * b.z.val) ^ 3 := by
    simp only [fmul_cast, fsqr_cast, ← hy₂]
    ring
  rcases addTail_standsFor a h₁ h₂ rfl (mul_ne_zero hza hzb) hu1 hu2 hs1 hs2 with ⟨hnone, rfl, rfl⟩ | ⟨r, hsome, hr⟩
  · simpa only [hnone] using hdouble
  · simpa only [hsome] using hr

/-! ### The unified addition (41_group_add.md R200) -/

/-- A finite affine value stands for the point with its coordinates. -/
theorem Ge.StandsFor.exists_some {b : Ge} {Q : Point} (h : b.StandsFor Q) (hinf : b.inf = false) :
    ∃ h, Q = .some (b.x.val : ZMod Config.p) (b.y.val : ZMod Config.p) h := by
  rcases h with ⟨ht, -⟩ | ⟨-, x, y, h', rfl, rfl, rfl⟩
  · simp [hinf] at ht
  · exact ⟨h', rfl⟩

/-- The coordinates R200 gives by the slope `l`: its `rrAlt` is `l·z·mAlt`, and its `nn'` is `mAlt³·(y₁ + y₂)·z³`. -/
theorem unified_coordinates {z x₁ y₁ x₂ y₂ l d nn : ZMod Config.p} (hl : l * (x₁ - x₂) = y₁ - y₂)
    (hnn : nn = d ^ 3 * ((y₁ + y₂) * z ^ 3)) :
    let q := d ^ 2 * ((x₁ + x₂) * z ^ 2)
    let xh := (l * z * d) ^ 2 - q
    let yh := l * z * d * (q - 2 * xh) - nn
    (l ^ 2 - x₁ - x₂) * (2 * (z * d)) ^ 2 = 4 * xh ∧
      (l * (x₁ - (l ^ 2 - x₁ - x₂)) - y₁) * (2 * (z * d)) ^ 3 = 4 * yh := by
  subst hnn
  refine ⟨by ring, ?_⟩
  linear_combination 4 * (z * d) ^ 3 * hl

/-- The end of the unified addition for a finite first operand, from the slope's numerator `r` and denominator `d` the
conditional moves left. -/
def unifiedResult (z t r d nn : Fe) : Gej :=
  let q := fmul (fsqr d) t
  let z3 := fmulint 2 (fmul z d)
  let xh := fsub (fsqr r) q
  let yh := fsub (fmul r (fsub q (fmulint 2 xh))) nn
  if fiszero z3 then JINF else ⟨fmulint 4 xh, fmulint 4 yh, z3, false⟩

omit [Fact (Nat.Prime Config.p)] in
theorem gejAddGeCt_finite {a : Gej} {b : Ge} (hainf : a.inf = false) :
    gejAddGeCt a b =
      let u2 := fmul b.x (fsqr a.z)
      let t := fadd a.x u2
      let m := fadd a.y (fmul (fmul b.y (fsqr a.z)) a.z)
      let rr := fsub (fsqr t) (fmul a.x u2)
      if degenerateFlag m rr then unifiedResult a.z t (fmulint 2 a.y) (fsub a.x u2) (feOfNat 0)
      else unifiedResult a.z t rr m (fsqr (fsqr m)) := by
  simp only [gejAddGeCt, unifiedResult, unifiedInfinityFlag, hainf, Bool.not_false, Bool.and_true, fcmov_false]
  generalize degenerateFlag _ _ = degenerate
  cases degenerate <;> rfl

theorem unifiedResult_zero (z t r nn : Fe) {d : Fe} (hd : (d.val : ZMod Config.p) = 0) :
    unifiedResult z t r d nn = JINF := by
  have hz3 : fiszero (fmulint 2 (fmul z d)) = true := by
    rw [fiszero_iff, ← Fe.cast_eq_zero, fmulint_cast, fmul_cast, hd, mul_zero, mul_zero]
  simp only [unifiedResult, if_pos hz3]

/-- With the slope `l` as `r / (z·d)`, the unified addition ends in the sum. -/
theorem unifiedResult_standsFor {z t r d nn : Fe} {x₁ y₁ x₂ y₂ l : ZMod Config.p} {R : Point}
    (hz : (z.val : ZMod Config.p) ≠ 0) (hd : (d.val : ZMod Config.p) ≠ 0) (hl : l * (x₁ - x₂) = y₁ - y₂)
    (ht : (t.val : ZMod Config.p) = (x₁ + x₂) * (z.val : ZMod Config.p) ^ 2)
    (hr : (r.val : ZMod Config.p) = l * z.val * d.val)
    (hnn : (nn.val : ZMod Config.p) = (d.val : ZMod Config.p) ^ 3 * ((y₁ + y₂) * (z.val : ZMod Config.p) ^ 3))
    (hR : ∃ h, R = .some (l ^ 2 - x₁ - x₂) (l * (x₁ - (l ^ 2 - x₁ - x₂)) - y₁) h) :
    (unifiedResult z t r d nn).StandsFor R := by
  obtain ⟨h, rfl⟩ := hR
  have hz3 : ((fmulint 2 (fmul z d)).val : ZMod Config.p) = 2 * (z.val * d.val) := by
    rw [fmulint_cast, fmul_cast, Nat.cast_ofNat]
  have hz3ne : (2 * (z.val * d.val) : ZMod Config.p) ≠ 0 := mul_ne_zero two_ne_zero_mod_p (mul_ne_zero hz hd)
  have hfinite : ¬ fiszero (fmulint 2 (fmul z d)) = true := by
    rw [fiszero_iff, ← Fe.cast_eq_zero, hz3]
    exact hz3ne
  obtain ⟨hx, hy⟩ := unified_coordinates hl hnn
  simp only [unifiedResult, if_neg hfinite]
  refine standsFor_some rfl (hz3 ▸ hz3ne) ?_ ?_ <;>
    simp only [hz3, fmulint_cast, fsub_cast, fmul_cast, fsqr_cast, ht, hr, Nat.cast_ofNat]
  · exact hx
  · exact hy

/-- The selector of the degenerate slope, for two points of the curve (41_group_add.md R200). -/
theorem degenerateFlag_iff {m rr : Fe} {z y x : ZMod Config.p} (hz : z ≠ 0) (hm : (m.val : ZMod Config.p) = y * z ^ 3)
    (hrr : (rr.val : ZMod Config.p) = x * z ^ 4) : degenerateFlag m rr = true ↔ y = 0 ∧ x = 0 := by
  rw [degenerateFlag, Bool.and_eq_true, fiszero_iff, fiszero_iff, ← Fe.cast_eq_zero, ← Fe.cast_eq_zero, hm, hrr,
    mul_eq_zero_iff_right (pow_ne_zero _ hz), mul_eq_zero_iff_right (pow_ne_zero _ hz)]

/-- The unified addition of a finite affine point follows the group law: by the slope `(x₁² + x₁x₂ + x₂²) / (y₁ + y₂)`,
which covers a double; by the chord where that is `0 / 0`; and by the identity for opposite points. -/
theorem gejAddGeCt_standsFor {a : Gej} {b : Ge} {P Q : Point} (ha : a.StandsFor P) (hb : b.StandsFor Q)
    (hbinf : b.inf = false) : (gejAddGeCt a b).StandsFor (P + Q) := by
  obtain ⟨h₂, rfl⟩ := hb.exists_some hbinf
  cases hainf : a.inf with
  | true =>
    rw [Gej.standsFor_zero hainf] at ha
    rw [ha, zero_add]
    refine standsFor_some ?_ ?_ ?_ ?_ <;>
      simp [gejAddGeCt, hainf, unifiedInfinityFlag, feOfNat_cast, -feOfNat_val]
  | false =>
  obtain ⟨hz, x₁, y₁, h₁, rfl, hx₁, hy₁⟩ := ha.exists_some hainf
  rw [gejAddGeCt_finite hainf]
  extract_lets u2 t m rr
  have e₁ := (curve_equation_iff _ _).1 h₁.1
  have e₂ := (curve_equation_iff _ _).1 h₂.1
  have hu2 : (u2.val : ZMod Config.p) = b.x.val * (a.z.val : ZMod Config.p) ^ 2 := by
    simp only [u2, fmul_cast, fsqr_cast]
  have ht : (t.val : ZMod Config.p) = (x₁ + b.x.val) * (a.z.val : ZMod Config.p) ^ 2 := by
    rw [fadd_cast, hu2, ← hx₁]
    ring
  have hm : (m.val : ZMod Config.p) = (y₁ + b.y.val) * (a.z.val : ZMod Config.p) ^ 3 := by
    simp only [m, fadd_cast, fmul_cast, fsqr_cast, ← hy₁]
    ring
  have hrr : (rr.val : ZMod Config.p) =
      (x₁ ^ 2 + x₁ * b.x.val + (b.x.val : ZMod Config.p) ^ 2) * (a.z.val : ZMod Config.p) ^ 4 := by
    rw [fsub_cast, fsqr_cast, fmul_cast, ht, hu2, ← hx₁]
    ring
  have hdeg := degenerateFlag_iff hz hm hrr
  generalize (b.x.val : ZMod Config.p) = x₂ at *
  generalize (b.y.val : ZMod Config.p) = y₂ at *
  have hfactor : (x₁ - x₂) * (x₁ ^ 2 + x₁ * x₂ + x₂ ^ 2) = (y₁ - y₂) * (y₁ + y₂) := by linear_combination e₂ - e₁
  by_cases hy : y₁ + y₂ = 0
  · by_cases hx : x₁ = x₂
    · have hopposite : y₁ = curve.negY x₂ y₂ := by rw [curve_negY, eq_neg_iff_add_eq_zero, hy]
      rw [WeierstrassCurve.Affine.Point.add_of_Y_eq hx hopposite]
      split
      · rw [unifiedResult_zero _ _ _ _ (by rw [fsub_cast, hu2, ← hx₁, hx, sub_self])]
        exact jinf_standsFor
      · rw [unifiedResult_zero _ _ _ _ (by rw [hm, hy, zero_mul])]
        exact jinf_standsFor
    · have hx' : x₁ - x₂ ≠ 0 := sub_ne_zero.2 hx
      have hl : (y₁ - y₂) / (x₁ - x₂) * (x₁ - x₂) = y₁ - y₂ := div_mul_cancel₀ _ hx'
      have hR : x₁ ^ 2 + x₁ * x₂ + x₂ ^ 2 = 0 :=
        (mul_eq_zero.1 (hfactor.trans (by rw [hy, mul_zero]))).resolve_left hx'
      have hd : ((fsub a.x u2).val : ZMod Config.p) = (x₁ - x₂) * (a.z.val : ZMod Config.p) ^ 2 := by
        rw [fsub_cast, hu2, ← hx₁]
        ring
      rw [if_pos (hdeg.2 ⟨hy, hR⟩)]
      refine unifiedResult_standsFor hz (hd ▸ mul_ne_zero hx' (pow_ne_zero _ hz)) hl ht ?_ ?_
        (some_add_some _ h₁ h₂ (.inl ⟨hx, hl⟩))
      · rw [hd, fmulint_cast, ← hy₁, Nat.cast_ofNat]
        linear_combination -(a.z.val : ZMod Config.p) ^ 3 * (hl - hy)
      · rw [hy, feOfNat_cast, Nat.cast_zero]
        ring
  · have hl : (x₁ ^ 2 + x₁ * x₂ + x₂ ^ 2) / (y₁ + y₂) * (y₁ + y₂) = x₁ ^ 2 + x₁ * x₂ + x₂ ^ 2 := div_mul_cancel₀ _ hy
    have hchord : (x₁ ^ 2 + x₁ * x₂ + x₂ ^ 2) / (y₁ + y₂) * (x₁ - x₂) = y₁ - y₂ := by
      apply mul_right_cancel₀ hy
      linear_combination (x₁ - x₂) * hl + hfactor
    rw [if_neg fun h => hy (hdeg.1 h).1]
    refine unifiedResult_standsFor hz (hm ▸ mul_ne_zero hy (pow_ne_zero _ hz)) hchord ht ?_ ?_
      (some_add_some _ h₁ h₂ (.inr ⟨hy, hl⟩))
    · rw [hrr, hm]
      linear_combination -(a.z.val : ZMod Config.p) ^ 4 * hl
    · rw [fsqr_cast, fsqr_cast, hm]
      ring

end Sys2Proof.Machine
end

section
/-! PROOFS. The generator table holds the points of 44_generator.md R263, and `gen_mul_core` on it is multiplication of
the base point (R267, R268). -/

namespace Sys2Proof.Machine

section
variable [Fact (Nat.Prime Config.p)]

/-! ### Conversions keep the point (40_group_convert.md R151, R160, R163, R165) -/

/-- An affine value that passes `GE_VALID` stands for a point of the curve. -/
theorem exists_standsFor_of_validFlag {a : Ge} (h : validFlag a = true) : ∃ P : Point, a.StandsFor P := by
  cases hinf : a.inf with
  | true => simp [validFlag, hinf] at h
  | false =>
    simp only [validFlag, hinf, Bool.false_eq_true, if_false, beq_iff_eq] at h
    have heq : curve.Equation (a.x.val : ZMod Config.p) (a.y.val : ZMod Config.p) := by
      rw [curve_equation_iff, ← fsqr_cast, h, fadd_cast, fmul_cast, fsqr_cast, feOfNat_cast, Config.b]
      ring
    have hns : curve.Nonsingular (a.x.val : ZMod Config.p) (a.y.val : ZMod Config.p) := by
      rw [WeierstrassCurve.Affine.nonsingular_iff]
      refine ⟨heq, .inr ?_⟩
      rw [← WeierstrassCurve.Affine.negY, curve_negY, Ne, eq_neg_iff_add_eq_zero, ← two_mul]
      exact mul_ne_zero two_ne_zero_mod_p (y_ne_zero heq)
    exact ⟨.some _ _ hns, .inr ⟨hinf, _, _, hns, rfl, rfl, rfl⟩⟩

theorem gejOfGe_standsFor {a : Ge} {P : Point} (h : a.StandsFor P) : (gejOfGe a).StandsFor P := by
  cases hinf : a.inf with
  | true =>
    rcases h with ⟨-, rfl⟩ | ⟨hf, -⟩
    · rw [gejOfGe, if_pos hinf]
      exact jinf_standsFor
    · simp [hinf] at hf
  | false =>
    obtain ⟨hns, rfl⟩ := h.exists_some hinf
    refine standsFor_some ?_ ?_ ?_ ?_ <;> simp [gejOfGe, hinf, feOfNat_cast, -feOfNat_val]

theorem gejNeg_standsFor {a : Gej} {P : Point} (h : a.StandsFor P) : (gejNeg a).StandsFor (-P) := by
  cases hinf : a.inf with
  | true =>
    rw [Gej.standsFor_zero hinf] at h
    simpa [gejNeg, hinf, h] using jinf_standsFor
  | false =>
    obtain ⟨hz, x, y, hns, rfl, hx, hy⟩ := h.exists_some hinf
    rw [WeierstrassCurve.Affine.Point.neg_some]
    refine standsFor_some ?_ ?_ ?_ ?_ <;>
      simp only [gejNeg, hinf, Bool.false_eq_true, if_false, fneg_cast, curve_negY, neg_mul, hx, hy]
    exact hz

theorem gejRescale_standsFor {a : Gej} {P : Point} {s : Fe} (hs : s.val ≠ 0) (h : a.StandsFor P) :
    (gejRescale a s).StandsFor P := by
  cases hinf : a.inf with
  | true =>
    rw [Gej.standsFor_zero hinf] at h
    simpa [gejRescale, hinf, h] using jinf_standsFor
  | false =>
    obtain ⟨hz, x, y, hns, rfl, hx, hy⟩ := h.exists_some hinf
    refine standsFor_some ?_ ?_ ?_ ?_ <;>
      simp only [gejRescale, hinf, Bool.false_eq_true, if_false, fmul_cast, fsqr_cast, ← hx, ← hy]
    · exact mul_ne_zero hz fun e => hs ((Fe.cast_eq_zero s).1 e)
    · ring
    · ring

/-- The storage form of a finite value holds the coordinates of its point. -/
theorem storageOf_standsFor {a : Gej} {P : Point} (hinf : a.inf = false) (h : a.StandsFor P) :
    (geOfSt (storageOf a)).StandsFor P := by
  obtain ⟨hz, x, y, hns, rfl, hx, hy⟩ := h.exists_some hinf
  obtain ⟨-, hfx, hfy⟩ := affineOf_finite a hinf fun e => hz ((Fe.cast_eq_zero _).2 e)
  refine .inr ⟨rfl, x, y, hns, rfl, mul_right_cancel₀ (pow_ne_zero 2 hz) ?_, mul_right_cancel₀ (pow_ne_zero 3 hz) ?_⟩
  · rw [hx, ← hfx, fmul_cast, fsqr_cast]
    rfl
  · rw [hy, ← hfy, fmul_cast, fmul_cast, fsqr_cast, ← pow_succ]
    rfl

/-! ### The base point and its order (00_scope.md R9) -/

/-- `k·a` by doubling and adding, for `k` of at most `bits` bits. -/
def gejMultiple (a : Gej) : (bits k : Nat) → Gej
  | 0, _ => JINF
  | bits + 1, k =>
    let doubled := (gejDouble (gejMultiple a bits (k / 2))).1
    if k % 2 = 1 then (gejAdd doubled a).1 else doubled

theorem gejMultiple_standsFor {a : Gej} {P : Point} (h : a.StandsFor P) (bits k : Nat) (hk : k < 2 ^ bits) :
    (gejMultiple a bits k).StandsFor (k • P) := by
  induction bits generalizing k with
  | zero =>
    obtain rfl : k = 0 := by simpa using hk
    simpa [gejMultiple] using jinf_standsFor
  | succ bits ih =>
    have hdouble := gejDouble_standsFor (ih (k / 2) (by omega))
    rw [← add_nsmul, ← two_mul] at hdouble
    rw [gejMultiple]
    split
    next hodd =>
      have hsum := gejAdd_standsFor hdouble h
      rwa [← succ_nsmul, show 2 * (k / 2) + 1 = k by omega] at hsum
    next heven => rwa [show 2 * (k / 2) = k by omega] at hdouble

theorem n_smul_basePoint {G : Point} (hG : basePoint.StandsFor G) : Config.n • G = 0 := by
  have hinf : (gejMultiple (gejOfGe basePoint) 256 Config.n).inf = true := by decide +kernel
  exact (Gej.standsFor_zero hinf).1 (gejMultiple_standsFor (gejOfGe_standsFor hG) 256 Config.n n_lt)

theorem exists_basePoint : ∃ G : Point, basePoint.StandsFor G :=
  exists_standsFor_of_validFlag (by decide)

theorem exists_auxPoint : ∃ U : Point, auxPoint.StandsFor U :=
  exists_standsFor_of_validFlag (by decide)

/-- The base point has order `n`, so no smaller multiple of it is the identity. -/
theorem smul_basePoint_ne_zero {G : Point} (hG : basePoint.StandsFor G) {k : Sc} (hk : k.val ≠ 0) : k.val • G ≠ 0 := by
  have hn : Fact (Nat.Prime Config.n) := ⟨n_prime⟩
  have hG0 : G ≠ 0 := by
    obtain ⟨hns, rfl⟩ := hG.exists_some rfl
    exact WeierstrassCurve.Affine.Point.some_ne_zero hns
  rw [Ne, ← addOrderOf_dvd_iff_nsmul_eq_zero, addOrderOf_eq_prime (n_smul_basePoint hG) hG0]
  exact Nat.not_dvd_of_pos_of_lt (Nat.pos_of_ne_zero hk) k.isLt

/-- Scalars subtract as multiples of the base point do. -/
theorem ssub_smul_basePoint {G : Point} (hG : basePoint.StandsFor G) (k b : Sc) :
    b.val • G + (ssub k b).val • G = k.val • G := by
  have hn := n_smul_basePoint hG
  have hmod (m : Nat) : (m % Config.n) • G = m • G := by
    conv_rhs => rw [← Nat.mod_add_div m Config.n, add_nsmul, mul_nsmul, hn, nsmul_zero, add_zero]
  rw [ssub_val, hmod, ← add_nsmul, show b.val + (k.val + (Config.n - b.val)) = k.val + Config.n by omega, add_nsmul, hn,
    add_zero]

/-! ### The entries of the generator table (44_generator.md R263) -/

theorem addChain_standsFor {step first : Gej} {S F : Point} (hS : step.StandsFor S) (hF : first.StandsFor F)
    (count i : Nat) (hi : i < count) :
    ((addChain step count first)[i]'(by rwa [length_addChain])).StandsFor (F + i • S) := by
  induction count generalizing first F i with
  | zero => exact absurd hi (Nat.not_lt_zero i)
  | succ count ih =>
    cases i with
    | zero => simpa [addChain] using hF
    | succ i =>
      have hnext := ih (gejAdd_standsFor hF hS) i (by omega)
      rw [add_assoc, ← succ_nsmul'] at hnext
      simpa only [addChain, List.getElem_cons_succ] using hnext

/-- No entry of the chains behind the groups `j`, `j + 1`, … is the identity. -/
def groupsFinite : (count j : Nat) → (gbase ubase : Gej) → Bool
  | 0, _, _, _ => true
  | count + 1, j, gbase, ubase =>
    (addChain gbase 16 ubase).all (fun a => !a.inf) &&
      groupsFinite count (j + 1) (sixteenTimes gbase) (nextOffset j ubase)

omit [Fact (Nat.Prime Config.p)] in
/-- No entry of the generator table is the identity: the spec's own check of its 1024 entries (44_generator.md R263). -/
theorem groupsFinite_genTable : groupsFinite 64 0 (gejOfGe basePoint) (gejOfGe auxPoint) = true := by decide +kernel

/-- The offset of group `j`: `2^j·U`, and `(1 - 2^63)·U` for the last group, so that all 64 sum to the identity
(44_generator.md R263). -/
def offsetPoint (U : Point) (j : Nat) : Point := if j < 63 then 2 ^ j • U else U - 2 ^ 63 • U

theorem add_sum_offsetPoint (U : Point) (k : Nat) (hk : k ≤ 63) :
    U + ∑ j ∈ Finset.range k, offsetPoint U j = 2 ^ k • U := by
  induction k with
  | zero => simp
  | succ k ih =>
    rw [Finset.sum_range_succ, ← add_assoc, ih (by omega), offsetPoint, if_pos (by omega), ← two_nsmul, ← mul_nsmul',
      ← pow_succ']

/-- The 64 offsets sum to the identity (44_generator.md R263). -/
theorem sum_offsetPoint (U : Point) : ∑ j ∈ Finset.range 64, offsetPoint U j = 0 := by
  rw [Finset.sum_range_succ, offsetPoint, if_neg (lt_irrefl 63), ← add_sum_offsetPoint U 63 le_rfl]
  abel

theorem sixteenTimes_standsFor {g : Gej} {P : Point} (h : g.StandsFor P) : (sixteenTimes g).StandsFor (16 • P) := by
  have h16 := gejDouble_standsFor (gejDouble_standsFor (gejDouble_standsFor (gejDouble_standsFor h)))
  rwa [show P + P + (P + P) + (P + P + (P + P)) + (P + P + (P + P) + (P + P + (P + P))) = 16 • P by abel] at h16

theorem nextOffset_standsFor {u : Gej} {U : Point} (hU : auxPoint.StandsFor U) {j : Nat} (hj : j < 63)
    (h : u.StandsFor (offsetPoint U j)) : (nextOffset j u).StandsFor (offsetPoint U (j + 1)) := by
  have hdouble := gejDouble_standsFor h
  rw [offsetPoint, if_pos hj, ← two_nsmul, ← mul_nsmul', ← pow_succ'] at hdouble
  by_cases hlast : j = 62
  · subst hlast
    have hsum := gejAdd_standsFor (gejNeg_standsFor hdouble) (gejOfGe_standsFor hU)
    rw [neg_add_eq_sub] at hsum
    simpa only [nextOffset, if_true, offsetPoint, lt_irrefl, if_false] using hsum
  · rw [offsetPoint, if_pos (by omega)]
    simpa only [nextOffset, if_neg hlast] using hdouble

theorem genGroups_standsFor {U G : Point} (hU : auxPoint.StandsFor U) (count j : Nat) {gbase ubase : Gej}
    (hj : j + count ≤ 64) (hg : gbase.StandsFor (16 ^ j • G)) (hu : j < 64 → ubase.StandsFor (offsetPoint U j))
    (hfinite : groupsFinite count j gbase ubase = true) (k : Nat) (hk : k < count) (i : Fin 16) :
    (geOfSt ((genGroups count j gbase ubase)[k]'(by rwa [length_genGroups]))[i]).StandsFor
      (offsetPoint U (j + k) + i.val • 16 ^ (j + k) • G) := by
  induction count generalizing j gbase ubase k with
  | zero => exact absurd hk (Nat.not_lt_zero k)
  | succ count ih =>
    rw [groupsFinite, Bool.and_eq_true, List.all_eq_true] at hfinite
    obtain ⟨hrow, hrest⟩ := hfinite
    cases k with
    | zero =>
      have hentry := addChain_standsFor hg (hu (by omega)) 16 i.val i.isLt
      have hinf := hrow _ (List.getElem_mem (by rw [length_addChain]; exact i.isLt))
      simpa [genGroups, chainTable] using storageOf_standsFor (by simpa using hinf) hentry
    | succ k =>
      have hg' := sixteenTimes_standsFor hg
      rw [← mul_nsmul', ← pow_succ'] at hg'
      have hnext := ih (j + 1) (by omega) hg' (fun hj' => nextOffset_standsFor hU (by omega) (hu (by omega))) hrest k
        (by omega)
      rw [Nat.add_assoc, Nat.add_comm 1 k] at hnext
      simpa only [genGroups, List.getElem_cons_succ] using hnext

/-- Entry `(j, i)` of the table stands for `U_j + (16^j·i)·G` (44_generator.md R263). -/
theorem genTable_standsFor {U G : Point} (hU : auxPoint.StandsFor U) (hG : basePoint.StandsFor G) (j : Fin 64)
    (i : Fin 16) : (geOfSt (genTable.read j i)).StandsFor (offsetPoint U j + i.val • 16 ^ j.val • G) := by
  have hg : (gejOfGe basePoint).StandsFor (16 ^ 0 • G) := by simpa using gejOfGe_standsFor hG
  have hu : (gejOfGe auxPoint).StandsFor (offsetPoint U 0) := by simpa [offsetPoint] using gejOfGe_standsFor hU
  simpa [genTable, GenTable.read] using
    genGroups_standsFor hU 64 0 le_rfl hg (fun _ => hu) groupsFinite_genTable j.val j.isLt i

/-! ### `gen_mul_core` (44_generator.md R267, R268) -/

/-- The window loop adds, to what it starts from, the entry of each window. -/
theorem genMulOver_standsFor {U G : Point} (hU : auxPoint.StandsFor U) (hG : basePoint.StandsFor G) (gnb : Sc)
    (js : List (Fin 64)) {r : Gej} {R : Point} (hr : r.StandsFor R) :
    (genMulOver genTable gnb js r).1.StandsFor
      (R + (js.map fun j => offsetPoint U j.val + (window gnb j).val • 16 ^ j.val • G).sum) := by
  induction js generalizing r R with
  | nil => simpa [genMulOver] using hr
  | cons j rest ih =>
    have hentry := genTable_standsFor hU hG j (window gnb j)
    have hrest := ih (gejAddGeCt_standsFor hr hentry rfl)
    simpa only [genMulOver, genSelect_eq, List.map_cons, List.sum_cons, add_assoc] using hrest

omit [Fact (Nat.Prime Config.p)] in
/-- The windows of a scalar are its digits in base 16 (44_generator.md R264). -/
theorem sum_windows (a k : Nat) : ∑ j ∈ Finset.range k, sbits a (4 * j) 4 * 16 ^ j = a % 16 ^ k := by
  induction k with
  | zero => simp [Nat.mod_one]
  | succ k ih =>
    rw [Finset.sum_range_succ, ih, Nat.mod_pow_succ, sbits, show 2 ^ (4 * k) = 16 ^ k by rw [pow_mul]; norm_num]
    exact congrArg (a % 16 ^ k + ·) (Nat.mul_comm ..)

theorem sum_entries {U G : Point} (gnb : Sc) :
    ((List.finRange 64).map fun j => offsetPoint U j.val + (window gnb j).val • 16 ^ j.val • G).sum = gnb.val • G := by
  have hwindows : ∑ j ∈ Finset.range 64, sbits gnb.val (4 * j) 4 • 16 ^ j • G = gnb.val • G := by
    have hdigits := sum_windows gnb.val 64
    rw [Nat.mod_eq_of_lt (gnb.lt_two_pow.trans_eq (by norm_num))] at hdigits
    simp only [← mul_nsmul', ← Finset.sum_smul, hdigits]
  rw [← Fin.sum_univ_def, Finset.sum_add_distrib]
  rw [Fin.sum_univ_eq_sum_range (fun j => offsetPoint U j) 64, sum_offsetPoint, zero_add]
  exact (Fin.sum_univ_eq_sum_range (fun j => sbits gnb.val (4 * j) 4 • 16 ^ j • G) 64).trans hwindows

/-- On the table of R263, `gen_mul_core` gives `k·G` under any blinding (44_generator.md R268). -/
theorem genMulCore_standsFor {G : Point} (hG : basePoint.StandsFor G) {initial : Gej} {blind : Sc}
    (hinitial : initial.StandsFor (blind.val • G)) (k : Sc) :
    (genMulCore genTable initial blind k).1.StandsFor (k.val • G) := by
  obtain ⟨U, hU⟩ := exists_auxPoint
  have hloop := genMulOver_standsFor hU hG (ssub k blind) (List.finRange 64) hinitial
  rwa [sum_entries, ssub_smul_basePoint hG] at hloop

/-! ### Every built generator context stays valid (10_state.md R54) -/

/-- `GEN_BUILD` leaves a valid context (44_generator.md R261). -/
theorem justBuilt_valid : GenCtx.justBuilt.Valid := by
  refine ⟨GenCtx.prec_justBuilt, rfl, fun G hG => ?_⟩
  have hone : (GenCtx.justBuilt.blind.val) • G = G := one_nsmul G
  rw [hone]
  exact gejOfGe_standsFor hG

omit [Fact (Nat.Prime Config.p)] in
@[simp] theorem reblind_initial (t : GenTable) (ctx : GenCtx) (scale : Fe) (b : Sc) :
    (reblind t ctx scale b).1.initial = (genMulCore t (gejRescale ctx.initial scale) ctx.blind b).1 := by
  simp only [reblind]

omit [Fact (Nat.Prime Config.p)] in
@[simp] theorem reblind_blind (t : GenTable) (ctx : GenCtx) (scale : Fe) (b : Sc) :
    (reblind t ctx scale b).1.blind = b := by
  simp only [reblind]

/-- `GEN_BLIND` leaves a valid context (44_generator.md R266). -/
theorem reblind_valid {ctx : GenCtx} (h : ctx.Valid) {scale : Fe} {b : Sc} (hscale : scale.val ≠ 0) (hb : b.val ≠ 0) :
    (reblind genTable ctx scale b).1.Valid := by
  obtain ⟨hprec, -, hinitial⟩ := h
  have hnew (G : Point) (hG : basePoint.StandsFor G) :
      (genMulCore genTable (gejRescale ctx.initial scale) ctx.blind b).1.StandsFor (b.val • G) :=
    genMulCore_standsFor hG (gejRescale_standsFor hscale (hinitial G hG)) b
  obtain ⟨G, hG⟩ := exists_basePoint
  rw [GenCtx.Valid, reblind_prec, reblind_initial, reblind_blind]
  exact ⟨hprec, (hnew G hG).finite (smul_basePoint_ne_zero hG hb), hnew⟩

/-- The invariant of R54: every built generator context is valid. -/
def BuiltValid (slots : Vector GenCtx Config.ngctx) : Prop := ∀ c : GSlot, slots[c].built = true → slots[c].Valid

theorem valid_next {old : Vector GenCtx Config.ngctx} {c : GSlot} {x : GenCtx} (hold : BuiltValid old)
    (h : GenSlotNext old c x) (hx : x.built = true) : x.Valid := by
  cases h with
  | copied c' => exact hold c' hx
  | unbuilt => simp [GenCtx.built] at hx
  | justBuilt => exact justBuilt_valid
  | reblinded t scale b ht hscale hb =>
    have hvalid := hold c (by simp [GenCtx.built, ht, -Fin.getElem_fin])
    have htable : t = genTable := by
      obtain ⟨hprec, -, -⟩ := hvalid
      exact Option.some.inj (ht.symm.trans hprec)
    exact htable ▸ reblind_valid hvalid hscale hb

theorem resetOf_builtValid (static : Bool) : BuiltValid (State.resetOf static).gctx := by
  intro c
  rw [resetOf_gctx]
  cases static
  · exact fun h => by simp [GenCtx.built] at h
  · exact fun _ => justBuilt_valid

end

/-- Settles O52: a step leaves in a slot a copy, a cleared slot, a fresh build or a re-blinded context, each valid by
its own lemma. -/
theorem builtContextsStayValid : Obligations.BuiltContextsStayValid := by
  unfold Obligations.BuiltContextsStayValid
  intro _ s t hs h
  exact step_keeps (fun s => BuiltValid s.gctx) (fun hsame hs => hsame.gctx ▸ hs)
    (fun hexec hs c => valid_next hs (exec_gctx hexec c)) (fun _ hs => hs) (fun s => resetOf_builtValid s.staticPrecomp)
    hs h

end Sys2Proof.Machine
end

section
/-! PROOFS. The host port access by access: the register map is exact, every step answers, and what reads and writes
return, store and leave (20_memory.md R81 to R85, R90, R96). -/

namespace Sys2Proof.Machine

/-! ### The register map is exact (20_memory.md R81, R96) -/

/-- What stands at an offset: nothing where it is reserved, and elsewhere a word whose offset it is. -/
def ExactAt (offset : Nat) (reserved : Prop) (found : Option HostReg) : Prop :=
  (found = none ∧ reserved) ∨ ∃ r, found = some r ∧ ¬ reserved ∧ r.offset = offset

section
variable {offset : Nat} {reserved : Prop}

theorem exactAt_none (h : reserved) : ExactAt offset reserved none := .inl ⟨rfl, h⟩

theorem exactAt_some {r : HostReg} (hr : ¬ reserved) (ho : r.offset = offset) : ExactAt offset reserved (some r) :=
  .inr ⟨r, rfl, hr, ho⟩

theorem exactAt_ite {c : Prop} [Decidable c] {a b : Option HostReg} (ha : c → ExactAt offset reserved a)
    (hb : ¬ c → ExactAt offset reserved b) : ExactAt offset reserved (if c then a else b) := by
  split
  · exact ha ‹_›
  · exact hb ‹_›

theorem ExactAt.congr {offset' : Nat} {reserved' : Prop} {found : Option HostReg}
    (h : ExactAt offset reserved found) (ho : offset = offset') (hr : reserved ↔ reserved') :
    ExactAt offset' reserved' found := by
  rwa [← ho, ← propext hr]

end

theorem wordIndex_val (o : Nat) : (wordIndex o).val = o / 4 % 8 := rfl

theorem locateControl_exact {n : Nat} (hn : n < 8) : ExactAt (4 * n) False (locateControl n) := by
  interval_cases n <;> exact exactAt_some id rfl

theorem locateA_exact (i : ASel) {o : Nat} (ha : o % 4 = 0) :
    ExactAt (0x400 + 0x80 * i + o) (0x44 ≤ o) (locateA i o) := by
  unfold locateA
  refine exactAt_ite (fun h => exactAt_some (by omega) ?_) fun h => ?_
  · simp only [HostReg.offset, wordIndex_val]; omega
  refine exactAt_ite (fun h => exactAt_some (by omega) ?_) fun h => ?_
  · simp only [HostReg.offset, wordIndex_val]; omega
  refine exactAt_ite (fun h => exactAt_some (by omega) ?_) fun h => exactAt_none (by omega)
  simp only [HostReg.offset]; omega

theorem locateJ_exact (i : JSel) {o : Nat} (ha : o % 4 = 0) :
    ExactAt (0x800 + 0x80 * i + o) (0x64 ≤ o) (locateJ i o) := by
  unfold locateJ
  refine exactAt_ite (fun h => exactAt_some (by omega) ?_) fun h => ?_
  · simp only [HostReg.offset, wordIndex_val]; omega
  refine exactAt_ite (fun h => exactAt_some (by omega) ?_) fun h => ?_
  · simp only [HostReg.offset, wordIndex_val]; omega
  refine exactAt_ite (fun h => exactAt_some (by omega) ?_) fun h => ?_
  · simp only [HostReg.offset, wordIndex_val]; omega
  refine exactAt_ite (fun h => exactAt_some (by omega) ?_) fun h => exactAt_none (by omega)
  simp only [HostReg.offset]; omega

theorem offset_locateT (i : TSel) {o : Nat} (ha : o % 4 = 0) (ho : o < 0x40) :
    (locateT i o).offset = 0xC00 + 0x40 * i + o := by
  unfold locateT
  split <;> simp only [HostReg.offset, wordIndex_val] <;> omega

/-- `locate` is exact at every aligned offset. -/
theorem locate_exact {o : Nat} (ha : o % 4 = 0) : ExactAt o (Reserved o) (locate o) := by
  unfold locate Reserved
  refine exactAt_ite (fun h => (locateControl_exact (by omega)).congr (by omega) ?_) fun h => ?_
  · exact iff_of_false id (by omega)
  refine exactAt_ite (fun h => exactAt_some (by omega) ?_) fun h => ?_
  · simp only [HostReg.offset, wordIndex_val]; omega
  refine exactAt_ite (fun h => exactAt_none (by omega)) fun h => ?_
  refine exactAt_ite (fun h => exactAt_some (by omega) ?_) fun h => ?_
  · simp only [HostReg.offset, wordIndex_val, Fin.val_ofNat]; omega
  refine exactAt_ite (fun h => exactAt_some (by omega) ?_) fun h => ?_
  · simp only [HostReg.offset, wordIndex_val, Fin.val_ofNat]; omega
  refine exactAt_ite (fun h => exactAt_none (by omega)) fun h => ?_
  refine exactAt_ite (fun h => (locateA_exact _ (by omega)).congr ?_ (by omega)) fun h => ?_
  · rw [Fin.val_ofNat]; omega
  refine exactAt_ite (fun h => (locateJ_exact _ (by omega)).congr ?_ (by omega)) fun h => ?_
  · rw [Fin.val_ofNat]; omega
  refine exactAt_ite (fun h => exactAt_some (by omega) ?_) fun h => ?_
  · rw [offset_locateT _ (by omega) (by omega), Fin.val_ofNat]; omega
  refine exactAt_ite (fun h => exactAt_none (by omega)) fun h => ?_
  refine exactAt_ite (fun h => exactAt_some (by omega) ?_) fun h => ?_
  · simp only [HostReg.offset, Fin.val_ofNat]; omega
  refine exactAt_ite (fun h => exactAt_some (by omega) ?_) fun h => exactAt_none (by omega)
  simp only [HostReg.offset, Fin.val_ofNat]; omega

theorem locate_eq_none_iff {o : Nat} (ha : o % 4 = 0) : locate o = none ↔ Reserved o := by
  rcases locate_exact ha with ⟨hn, hr⟩ | ⟨r, hs, hr, -⟩
  · simp [hn, hr]
  · simp [hs, hr]

theorem offset_of_locate {o : Nat} {r : HostReg} (ha : o % 4 = 0) (h : locate o = some r) : r.offset = o := by
  rcases locate_exact ha with ⟨hn, -⟩ | ⟨r', hs, -, ho⟩
  · simp [hn] at h
  · exact Option.some.inj (hs.symm.trans h) ▸ ho

/-- An access names no word exactly where R85 or R96 refuses it. -/
theorem target_eq_none_iff (width : Nat) (offset : BitVec 13) :
    target width offset = none ↔ width ≠ 32 ∨ offset.toNat % 4 ≠ 0 ∨ Reserved offset.toNat := by
  unfold target admitted
  by_cases hw : width = 32 <;> by_cases ho : offset.toNat % 4 = 0 <;> simp [hw, ho, locate_eq_none_iff]

/-- An access names a word exactly where it is 32 bits wide and at the word's offset. -/
theorem target_eq_some_iff (width : Nat) (offset : BitVec 13) (r : HostReg) :
    target width offset = some r ↔ width = 32 ∧ offset = BitVec.ofNat 13 r.offset := by
  refine ⟨fun h => ?_, fun ⟨hw, ho⟩ => hw ▸ ho ▸ target_offset r⟩
  obtain ⟨hw, ha, hl⟩ := (target_some_iff ..).1 h
  rw [offset_of_locate ha hl, BitVec.ofNat_toNat, BitVec.setWidth_eq]
  exact ⟨hw, rfl⟩

/-! ### Every step answers (20_memory.md R90, 70_reset_and_hazards.md R391) -/

theorem exec_next (i : Instr) (s : State) : ∃ t, exec i s = .next t := by
  obtain ⟨tr, r, hends, -⟩ := exec_endsWith i s
  exact ⟨_, hends s (.refl i s)⟩

theorem cmdWrite_next (w : Word) (s : State) : ∃ t, cmdWrite w s = .next t := by
  rcases cmdWrite_cases w s with ⟨-, hs⟩ | ⟨-, -, hs⟩ | ⟨-, i, -, hs⟩ <;> rw [hs]
  · exact ⟨_, rfl⟩
  · exact ⟨_, rfl⟩
  · exact exec_next i s

theorem hostWrite_next (width : Nat) (offset : BitVec 13) (w : Word) (s : State) :
    ∃ t, hostWrite width offset w s = .next t := by
  unfold hostWrite
  split
  · exact ⟨_, rfl⟩
  · exact cmdWrite_next w _
  · exact ⟨_, rfl⟩
  · exact ⟨_, rfl⟩

theorem hostRead_next (width : Nat) (offset : BitVec 13) (s : State) : ∃ t, hostRead width offset s = .next t := by
  unfold hostRead
  split <;> exact ⟨_, rfl⟩

theorem takeAccess_nil {s : State} (h : s.host = []) : takeAccess s = .next s := by simp only [takeAccess, h]

theorem takeAccess_cons {s : State} {a : HostAccess} {rest : List HostAccess} (h : s.host = a :: rest) :
    takeAccess s = hostAccess a { s with host := rest } := by simp only [takeAccess, h]

/-- Settles O6: each arm of the host port answers a next state, the `CMD` write because every command does. -/
theorem everyStepAnswersNext : Obligations.EveryStepAnswersNext := by
  unfold Obligations.EveryStepAnswersNext
  refine ⟨fun s => ?_, fun s => takeAccess_nil⟩
  unfold step
  cases hhost : s.host with
  | nil => exact ⟨s, takeAccess_nil hhost⟩
  | cons a rest =>
    rw [takeAccess_cons hhost]
    cases a with
    | read width offset => exact hostRead_next ..
    | write width offset w => exact hostWrite_next ..
    | hardReset => exact ⟨_, rfl⟩

/-! ### Reads (20_memory.md R83, R85) -/

/-- What a read is answered. -/
def readAnswer (s : State) (width : Nat) (offset : BitVec 13) : Response :=
  (target width offset).elim .busError fun r => .data (loadReg s r)

/-- Everything a read can do. -/
theorem performs_read (s : State) (width : Nat) (offset : BitVec 13) :
    Performs (.read width offset) s { s with response := readAnswer s width offset } := by
  intro rest
  simp only [step, takeAccess, hostAccess, hostRead, readAnswer]
  cases target width offset with
  | none => rfl
  | some r => simp only [loadReg_host_response s rest s.response r, Option.elim]; rfl

/-- `CTXSTAT` shows the built bits and nothing else of the contexts (10_state.md R47, R53). -/
theorem ctxStatWord_congr {s s' : State} (hg : ∀ c : GSlot, s.gctx[c].built = s'.gctx[c].built)
    (hm : ∀ c : MSlot, s.mctx[c].built = s'.mctx[c].built) : ctxStatWord s = ctxStatWord s' := by
  have hg0 : s.gctx[0].built = s'.gctx[0].built := hg 0
  have hg1 : s.gctx[1].built = s'.gctx[1].built := hg 1
  have hm0 : s.mctx[0].built = s'.mctx[0].built := hm 0
  have hm1 : s.mctx[1].built = s'.mctx[1].built := hm 1
  rw [← ctxStat_word, ← ctxStat_word, hg0, hg1, hm0, hm1]

theorem loadReg_contexts (s : State) (g : Vector GenCtx Config.ngctx) (m : Vector MulCtx Config.nmctx)
    (hg : ∀ c : GSlot, s.gctx[c].built = g[c].built) (hm : ∀ c : MSlot, s.mctx[c].built = m[c].built) (r : HostReg) :
    loadReg { s with gctx := g, mctx := m } r = loadReg s r := by
  cases r with
  | ctxStat => exact (ctxStatWord_congr (s' := { s with gctx := g, mctx := m }) hg hm).symm
  | _ => rfl

/-- Settles O20: a read is answered a word of the register map, and only `CTXSTAT` looks at a context. -/
theorem hostReadsRevealOnlyBuiltBits : Obligations.HostReadsRevealOnlyBuiltBits := by
  unfold Obligations.HostReadsRevealOnlyBuiltBits
  intro s g m hg hm width offset rest t t' h h'
  obtain rfl := Host.Outcome.next.inj ((performs_read s width offset rest).symm.trans h)
  obtain rfl := Host.Outcome.next.inj ((performs_read { s with gctx := g, mctx := m } width offset rest).symm.trans h')
  refine ⟨?_, rfl, rfl⟩
  simp only [readAnswer, loadReg_contexts s g m hg hm]

/-! ### Writes (20_memory.md R83, R85) -/

theorem refused_write {width : Nat} {offset : BitVec 13} (h : target width offset = none) (s : State) (w : Word) :
    Refused (.write width offset w) s := by
  intro rest
  simp only [step, takeAccess, hostAccess, hostWrite, h]
  rfl

theorem applyAll_response (s : State) (ws : List Write) : (s.applyAll ws).response = s.response := by
  induction ws generalizing s with
  | nil => rfl
  | cons w rest ih =>
    have hw : (s.apply w).response = s.response := by cases w <;> rfl
    exact (ih _).trans hw

theorem exec_response {i : Instr} {s t : State} (h : exec i s = .next t) : t.response = s.response := by
  rcases exec_cases h with ⟨ws, tr, -, rfl⟩ | ⟨f, tr, rfl⟩
  · rw [State.recordLeak_response, applyAll_response]
  · rw [State.recordLeak_response, State.takeFault_response]

theorem cmdWrite_response {w : Word} {s t : State} (h : cmdWrite w s = .next t) : t.response = s.response := by
  rcases cmdWrite_cases w s with ⟨-, hs⟩ | ⟨-, -, hs⟩ | ⟨-, i, -, hs⟩ <;> rw [hs] at h
  · rw [← Host.Outcome.next.inj h]
  · rw [← Host.Outcome.next.inj h, State.takeIllegal_response]
  · exact exec_response h

theorem ctrlWrite_response (w : Word) (s : State) : (ctrlWrite w s).response = s.response := by
  unfold ctrlWrite; split <;> rfl

theorem storeReg_response (s : State) (r : HostReg) (w : Word) : (storeReg s r w).response = s.response := by
  cases r <;> rfl

/-- A write that names a word is accepted, whether or not it has an effect. -/
theorem hostWrite_response {width : Nat} {offset : BitVec 13} {w : Word} {s t : State}
    (hr : target width offset ≠ none) (h : hostWrite width offset w s = .next t) : t.response = .accepted := by
  unfold hostWrite at h
  split at h
  · exact absurd ‹_› hr
  · exact cmdWrite_response h
  · rw [← Host.Outcome.next.inj h, ctrlWrite_response]; rfl
  · rw [← Host.Outcome.next.inj h]
    split
    · rfl
    · rw [storeReg_response]; rfl

/-- Settles O22: the refused accesses are those that name no word, and every other reads or writes the word it names. -/
theorem unmappedAccessesAreRefused : Obligations.UnmappedAccessesAreRefused := by
  unfold Obligations.UnmappedAccessesAreRefused
  intro s width offset
  refine ⟨fun h => ?_, fun hw ha hr => ?_⟩
  · have hnone : target width offset = none := (target_eq_none_iff ..).2 h
    refine ⟨?_, refused_write hnone s⟩
    have hread := performs_read s width offset
    rwa [readAnswer, hnone] at hread
  · have hsome : target width offset ≠ none := by simp [target_eq_none_iff, hw, ha, hr]
    obtain ⟨r, htarget⟩ := Option.ne_none_iff_exists'.1 hsome
    refine ⟨⟨loadReg s r, ?_⟩, fun w t rest h => hostWrite_response (w := w) (hw ▸ hsome) h⟩
    have hread := performs_read s width offset
    rwa [readAnswer, htarget] at hread

/-! ### A register word written (20_memory.md R83, R84) -/

theorem hostWrite_store {width : Nat} {offset : BitVec 13} {r : HostReg} (h : target width offset = some r)
    (hcmd : r ≠ .cmd) (hctrl : r ≠ .ctrl) {s : State} (hs : s.fault = false) (w : Word) :
    hostWrite width offset w s = .next (storeReg (s.respond .accepted) r w) := by
  simp only [hostWrite, h, hs, Bool.false_eq_true, if_false]

theorem storeReg_respond (s : State) (host : List HostAccess) (r : HostReg) (w : Word) :
    storeReg (State.respond { s with host := host } .accepted) r w =
      { storeReg s r w with host := host, response := .accepted } := by
  cases r <;> rfl

theorem writes_store {r : HostReg} (hcmd : r ≠ .cmd) (hctrl : r ≠ .ctrl) {s : State} (hs : s.fault = false) (w : Word) :
    Writes s r.offset w (storeReg s r w) := by
  intro rest
  have hwrite := hostWrite_store (s := { s with host := rest }) (target_offset r) hcmd hctrl hs w
  exact hwrite.trans (congrArg _ (storeReg_respond s rest r w))

theorem bitWord_lowBit (w : Word) : bitWord (lowBit w) = w &&& 1 := by
  rw [show w &&& 1 = _ from BitVec.and_one_eq_setWidth_ofBool_getLsbD, lowBit]
  cases w.getLsbD 0 <;> rfl

theorem getWord_setWord_same (v : U256) (k : Fin 8) (w : Word) : getWord (setWord v k w) k = w := by
  rw [getWord_setWord, if_pos rfl]

theorem getWord_setWord_ne (v : U256) {k j : Fin 8} (h : j ≠ k) (w : Word) :
    getWord (setWord v k w) j = getWord v j := by
  rw [getWord_setWord, if_neg h]

/-- A stored word reads back, in the bits that exist. -/
theorem loadReg_storeReg_same {r : HostReg} (hr : r.kind = .readWrite) (s : State) (w : Word) :
    loadReg (storeReg s r w) r = w &&& r.mask := by
  have hall : w &&& 0xFFFFFFFF = w := BitVec.and_allOnes
  cases r with
  | tflag => exact bitWord_lowBit w
  | aInf i | jInf i => simpa [loadReg, storeReg, HostReg.mask] using bitWord_lowBit w
  | s i k | f i k | aX i k | aY i k | jX i k | jY i k | jZ i k | tX i k | tY i k =>
    simpa [loadReg, storeReg, HostReg.mask, getWord_setWord_same] using hall.symm
  | _ => simp [HostReg.kind] at hr

/-- Register `j` shows what it showed if the content written to register `i` shows it where they are the same. -/
theorem view_set {α β : Type} {n : Nat} (view : α → β) (v : Vector α n) {x : α} {i j : Fin n}
    (h : i = j → view x = view v[j]) : view (v.set i x)[j] = view v[j] := by
  by_cases hij : i = j
  · subst hij
    simpa using h rfl
  · rw [getElem_set_of_ne v x hij]

/-- A new content of `A[i]` shows in no word but those in which it differs from the old. -/
theorem loadReg_putA {s : State} {i : ASel} {x : AReg} {r r' : HostReg} (hne : r' ≠ r)
    (hx : ∀ k, .aX i k ≠ r → getWord x.x k = getWord s.aReg[i].x k)
    (hy : ∀ k, .aY i k ≠ r → getWord x.y k = getWord s.aReg[i].y k)
    (hinf : .aInf i ≠ r → x.inf = s.aReg[i].inf) : loadReg (s.putA i x) r' = loadReg s r' := by
  cases r' with
  | aX j k => exact view_set (fun a => getWord a.x k) s.aReg fun (e : i = j) => by subst e; exact hx k hne
  | aY j k => exact view_set (fun a => getWord a.y k) s.aReg fun (e : i = j) => by subst e; exact hy k hne
  | aInf j => exact view_set (fun a => bitWord a.inf) s.aReg fun (e : i = j) => by subst e; exact congrArg _ (hinf hne)
  | _ => rfl

/-- A new content of `J[i]` shows in no word but those in which it differs from the old. -/
theorem loadReg_putJ {s : State} {i : JSel} {x : JReg} {r r' : HostReg} (hne : r' ≠ r)
    (hx : ∀ k, .jX i k ≠ r → getWord x.x k = getWord s.jReg[i].x k)
    (hy : ∀ k, .jY i k ≠ r → getWord x.y k = getWord s.jReg[i].y k)
    (hz : ∀ k, .jZ i k ≠ r → getWord x.z k = getWord s.jReg[i].z k)
    (hinf : .jInf i ≠ r → x.inf = s.jReg[i].inf) : loadReg (s.putJ i x) r' = loadReg s r' := by
  cases r' with
  | jX j k => exact view_set (fun a => getWord a.x k) s.jReg fun (e : i = j) => by subst e; exact hx k hne
  | jY j k => exact view_set (fun a => getWord a.y k) s.jReg fun (e : i = j) => by subst e; exact hy k hne
  | jZ j k => exact view_set (fun a => getWord a.z k) s.jReg fun (e : i = j) => by subst e; exact hz k hne
  | jInf j => exact view_set (fun a => bitWord a.inf) s.jReg fun (e : i = j) => by subst e; exact congrArg _ (hinf hne)
  | _ => rfl

/-- A new content of `T[i]` shows in no word but those in which it differs from the old. -/
theorem loadReg_putT {s : State} {i : TSel} {x : TReg} {r r' : HostReg} (hne : r' ≠ r)
    (hx : ∀ k, .tX i k ≠ r → getWord x.x k = getWord s.tReg[i].x k)
    (hy : ∀ k, .tY i k ≠ r → getWord x.y k = getWord s.tReg[i].y k) : loadReg (s.putT i x) r' = loadReg s r' := by
  cases r' with
  | tX j k => exact view_set (fun a => getWord a.x k) s.tReg fun (e : i = j) => by subst e; exact hx k hne
  | tY j k => exact view_set (fun a => getWord a.y k) s.tReg fun (e : i = j) => by subst e; exact hy k hne
  | _ => rfl

/-- A store changes no other word of the map. -/
theorem loadReg_storeReg_ne {r r' : HostReg} (hne : r' ≠ r) (s : State) (w : Word) :
    loadReg (storeReg s r w) r' = loadReg s r' := by
  have hword (v : U256) {k j : Fin 8} (word : Fin 8 → HostReg) (h : word j ≠ word k) :
      getWord (setWord v k w) j = getWord v j := getWord_setWord_ne v (fun e => h (congrArg word e)) w
  cases r with
  | tflag => cases r' with
    | tflag => exact absurd rfl hne
    | _ => rfl
  | s i k => cases r' with
    | s j l => exact view_set (getWord · l) s.sRaw fun (e : i = j) => by subst e; exact hword _ (.s i) hne
    | _ => rfl
  | f i k => cases r' with
    | f j l => exact view_set (getWord · l) s.fRaw fun (e : i = j) => by subst e; exact hword _ (.f i) hne
    | _ => rfl
  | aX i k => exact loadReg_putA hne (fun _ => hword _ (.aX i)) (fun _ _ => rfl) fun _ => rfl
  | aY i k => exact loadReg_putA hne (fun _ _ => rfl) (fun _ => hword _ (.aY i)) fun _ => rfl
  | aInf i => exact loadReg_putA hne (fun _ _ => rfl) (fun _ _ => rfl) fun h => absurd rfl h
  | jX i k => exact loadReg_putJ hne (fun _ => hword _ (.jX i)) (fun _ _ => rfl) (fun _ _ => rfl) fun _ => rfl
  | jY i k => exact loadReg_putJ hne (fun _ _ => rfl) (fun _ => hword _ (.jY i)) (fun _ _ => rfl) fun _ => rfl
  | jZ i k => exact loadReg_putJ hne (fun _ _ => rfl) (fun _ _ => rfl) (fun _ => hword _ (.jZ i)) fun _ => rfl
  | jInf i => exact loadReg_putJ hne (fun _ _ => rfl) (fun _ _ => rfl) (fun _ _ => rfl) fun h => absurd rfl h
  | tX i k => exact loadReg_putT hne (fun _ => hword _ (.tX i)) fun _ _ => rfl
  | tY i k => exact loadReg_putT hne (fun _ _ => rfl) fun _ => hword _ (.tY i)
  | cmd | ctrl | status | faultInfo | ctxStat | retval | cfg | seed | wDigit | wBits => rfl

/-- A store to a read-write word keeps `SEED`, the contexts and the leak. -/
theorem storeReg_keeps {r : HostReg} (hr : r.kind = .readWrite) (s : State) (w : Word) :
    (storeReg s r w).seed = s.seed ∧ (storeReg s r w).gctx = s.gctx ∧ (storeReg s r w).mctx = s.mctx ∧
      (storeReg s r w).leak = s.leak := by
  cases r with
  | seed k => simp [HostReg.kind] at hr
  | _ => exact ⟨rfl, rfl, rfl, rfl⟩

theorem loadReg_writeOnly {r : HostReg} (hr : r.kind = .writeOnly) (s : State) : loadReg s r = 0 := by
  cases r with
  | cmd | ctrl | seed => rfl
  | _ => simp [HostReg.kind] at hr

/-- Settles O23: a write performs `storeReg`, which the lemmas above describe word by word. -/
theorem hostWritesStoreOneWord : Obligations.HostWritesStoreOneWord := by
  unfold Obligations.HostWritesStoreOneWord
  refine ⟨fun s w r hs hr => ?_, fun s w k hs => ?_, fun s w r hr => writes_readOnly (target_offset r) hr s w,
    fun s r => reads_reg r rfl rfl, fun s r hr => reads_reg r rfl (loadReg_writeOnly hr s).symm⟩
  · have hcmd : r ≠ .cmd := fun e => by simp [e, HostReg.kind] at hr
    have hctrl : r ≠ .ctrl := fun e => by simp [e, HostReg.kind] at hr
    exact ⟨storeReg s r w, writes_store hcmd hctrl hs w, loadReg_storeReg_same hr s w,
      fun r' hne => loadReg_storeReg_ne hne s w, storeReg_keeps hr s w⟩
  · exact ⟨setWord s.seed k w, writes_store (r := .seed k) HostReg.noConfusion HostReg.noConfusion hs w,
      fun k' => getWord_setWord s.seed k k' w⟩

end Sys2Proof.Machine
end

section
/-! PROOFS. A context slot changes only by a reset or by the commands that name it (20_memory.md R82, R87;
44_generator.md R272). -/

namespace Sys2Proof.Machine

/-! ### The contexts in a step -/

/-- A step that is no reset keeps the contexts, or executes a command on the contexts as they are. -/
theorem step_contexts {s t : State} (h : step s = .next t) (hreset : ¬ ResetComesNext s) :
    (t.gctx = s.gctx ∧ t.mctx = s.mctx) ∨
    ∃ i u, CommandComesNext s i ∧ exec i u = .next t ∧ u.gctx = s.gctx ∧ u.mctx = s.mctx := by
  rcases step_cases h with ⟨-, rfl⟩ | ⟨a, rest, hhost, hread | hwrite | ⟨rfl, -⟩⟩
  · exact .inl ⟨rfl, rfl⟩
  · obtain ⟨width, offset, -, ⟨-, rfl⟩ | ⟨r, -, rfl⟩⟩ := hread <;> exact .inl ⟨rfl, rfl⟩
  · obtain ⟨width, offset, w, rfl, ⟨-, rfl⟩ | ⟨htarget, hcmd⟩ | ⟨htarget, rfl⟩ | ⟨r, -, -, -, rfl⟩⟩ := hwrite
    · exact .inl ⟨rfl, rfl⟩
    · obtain ⟨rfl, rfl⟩ := (target_eq_some_iff ..).1 htarget
      rcases cmdWrite_cases w { s with host := rest, response := .accepted } with ⟨-, hw⟩ | ⟨-, -, hw⟩ | ⟨-, i, hi, hw⟩
      · exact .inl (Host.Outcome.next.inj (hw.symm.trans hcmd) ▸ ⟨rfl, rfl⟩)
      · exact .inl (Host.Outcome.next.inj (hw.symm.trans hcmd) ▸ ⟨rfl, rfl⟩)
      · exact .inr ⟨i, _, ⟨w, rest, hhost, hi⟩, hw.symm.trans hcmd, rfl, rfl⟩
    · obtain ⟨rfl, rfl⟩ := (target_eq_some_iff ..).1 htarget
      have hclear : lowBit w = false := Bool.eq_false_iff.2 fun hw => hreset ⟨rest, .inr ⟨w, hw, hhost⟩⟩
      rw [ctrlWrite, hclear]
      exact .inl ⟨rfl, rfl⟩
    · split
      · exact .inl ⟨rfl, rfl⟩
      · have hsame := storeReg_sameInternal { s with host := rest, response := .accepted } r w
        exact .inl ⟨hsame.gctx, hsame.mctx⟩
  · exact absurd ⟨rest, .inl hhost⟩ hreset

/-- A build of a built slot writes nothing (44_generator.md R261). -/
theorem genBuild_built {c : GSlot} {s t : State} (hc : s.gctx[c].built = true)
    (h : exec (.genBuild c) s = .next t) : t.gctx[c] = s.gctx[c] := by
  simp only [exec, execGenBuild, hc, finish_ok, if_true] at h
  rw [← Host.Outcome.next.inj h, State.recordLeak_gctx]

theorem mulBuild_built {c : MSlot} {s t : State} (hc : s.mctx[c].built = true)
    (h : exec (.mulBuild c) s = .next t) : t.mctx[c] = s.mctx[c] := by
  simp only [exec, execMulBuild, hc, finish_ok, if_true] at h
  rw [← Host.Outcome.next.inj h, State.recordLeak_mctx]

theorem genClear_gctx {c : GSlot} {s t : State} (h : exec (.genClear c) s = .next t) : t.gctx[c] = .unbuilt := by
  simp only [exec, execGenClear, finish_ok] at h
  rw [← Host.Outcome.next.inj h]
  simp

/-- A blinding refresh keeps the table (44_generator.md R266). -/
theorem genBlind_prec {c : GSlot} {s t : State} (h : exec (.genBlind c) s = .next t) :
    t.gctx[c].prec = s.gctx[c].prec := by
  simp only [exec, execGenBlind, blindWith] at h
  split at h
  · rw [← Host.Outcome.next.inj h]
    simp [afterCommand]
  split at h <;> (rw [← Host.Outcome.next.inj h]; simp [afterCommand])

/-! ### The built slots in a command -/

/-- What a command can do to a built generator slot. -/
theorem exec_builtG {i : Instr} {s t : State} {c : GSlot} (h : exec i s = .next t) (hc : s.gctx[c].built = true) :
    t.gctx[c] = s.gctx[c] ∨ (i = .genClear c ∧ t.gctx[c] = .unbuilt) ∨ (∃ cs, i = .genClone c cs) ∨
      (i = .genBlind c ∧ t.gctx[c].prec = s.gctx[c].prec) := by
  by_cases hd : .gctx c ∈ destinations i
  · cases i with
    | genBuild cx =>
      obtain rfl : c = cx := by simpa [destinations] using hd
      exact .inl (genBuild_built hc h)
    | genClear cx =>
      obtain rfl : c = cx := by simpa [destinations] using hd
      exact .inr (.inl ⟨rfl, genClear_gctx h⟩)
    | genClone cx cs =>
      obtain rfl : c = cx := by simpa [destinations] using hd
      exact .inr (.inr (.inl ⟨cs, rfl⟩))
    | genBlind cx =>
      obtain rfl : c = cx := by simpa [destinations] using hd
      exact .inr (.inr (.inr ⟨rfl, genBlind_prec h⟩))
    | _ => simp [destinations] at hd
  · exact .inl (exec_frame (.gctx c) h hd)

/-- What a command can do to a built multiply slot. -/
theorem exec_builtM {i : Instr} {s t : State} {c : MSlot} (h : exec i s = .next t) (hc : s.mctx[c].built = true) :
    t.mctx[c] = s.mctx[c] ∨ i = .mulClear c ∨ ∃ cs, i = .mulClone c cs := by
  by_cases hd : .mctx c ∈ destinations i
  · cases i with
    | mulBuild cx =>
      obtain rfl : c = cx := by simpa [destinations] using hd
      exact .inl (mulBuild_built hc h)
    | mulClear cx =>
      obtain rfl : c = cx := by simpa [destinations] using hd
      exact .inr (.inl rfl)
    | mulClone cx cs =>
      obtain rfl : c = cx := by simpa [destinations] using hd
      exact .inr (.inr ⟨cs, rfl⟩)
    | _ => simp [destinations] at hd
  · exact .inl (exec_frame (.mctx c) h hd)

/-- Settles O19: a step without a reset keeps the contexts or executes a command, which keeps what is not its
destination, and of a built slot what `exec_builtG` and `exec_builtM` say. -/
theorem contextsChangeOnlyByTheirCommands : Obligations.ContextsChangeOnlyByTheirCommands := by
  unfold Obligations.ContextsChangeOnlyByTheirCommands
  intro s t h hreset
  rcases step_contexts h hreset with ⟨hg, hm⟩ | ⟨i, u, hi, hexec, hg, hm⟩
  · rw [hg, hm]
    exact ⟨fun c hne => absurd rfl hne, fun c hne => absurd rfl hne, fun c table hs ht => absurd hs ht,
      fun c table hs ht => absurd hs ht, fun c _ _ hne => absurd rfl hne⟩
  · rw [← hg, ← hm]
    refine ⟨fun c hne => ⟨i, hi, ?_⟩, fun c hne => ⟨i, hi, ?_⟩, fun c table hs ht => ?_, fun c table hs ht => ?_,
      fun c hc hprec hne => ?_⟩
    · exact of_not_not fun hd => hne (exec_frame (.gctx c) hexec hd).symm
    · exact of_not_not fun hd => hne (exec_frame (.mctx c) hexec hd).symm
    · have hbuilt : u.gctx[c].built = true := by rw [GenCtx.built, hs]; rfl
      rcases exec_builtG hexec hbuilt with hkeep | ⟨rfl, -⟩ | ⟨cs, rfl⟩ | ⟨-, hprec⟩
      · exact absurd (hkeep ▸ hs) ht
      · exact .inl hi
      · exact .inr ⟨cs, hi⟩
      · exact absurd (hprec.trans hs) ht
    · have hbuilt : u.mctx[c].built = true := by rw [MulCtx.built, hs]; rfl
      rcases exec_builtM hexec hbuilt with hkeep | rfl | ⟨cs, rfl⟩
      · exact absurd (hkeep ▸ hs) ht
      · exact .inl hi
      · exact .inr ⟨cs, hi⟩
    · rcases exec_builtG hexec hc with hkeep | ⟨-, hunbuilt⟩ | ⟨cs, rfl⟩ | ⟨rfl, -⟩
      · exact absurd hkeep.symm hne
      · rw [GenCtx.built, ← hprec, hunbuilt] at hc
        simp at hc
      · exact .inr ⟨cs, hi⟩
      · exact .inl hi

end Sys2Proof.Machine
end

section
/-! PROOFS. The encoding and the decoding of commands are inverse, and a word is rejected exactly where it is illegal
(30_encoding.md R110 to R122). -/

namespace Sys2Proof.Machine

/-! ### A word is the word of its fields (30_encoding.md R111) -/

section
variable {w : Word} {op : Byte}

theorem wordR_eq_iff {rd ra rb rc cs cx : Nat} (hrd : rd < 16) (hra : ra < 16) (hrb : rb < 16) (hrc : rc < 16)
    (hcs : cs < 4) (hcx : cx < 4) :
    wordR op rd ra rb rc cs cx = w ↔
      field w 0 8 = op.toNat ∧ field w 8 4 = rd ∧ field w 12 4 = ra ∧ field w 16 4 = rb ∧ field w 20 4 = rc ∧
        field w 24 4 = 0 ∧ field w 28 2 = cs ∧ field w 30 2 = cx := by
  have hop := op.isLt
  have hw := w.isLt
  simp only [← BitVec.toNat_inj, wordR, field, BitVec.toNat_ofNat]
  omega

theorem wordT_eq_iff {rd ra j cx : Nat} (hrd : rd < 16) (hra : ra < 16) (hj : j < 64) (hcx : cx < 4) :
    wordT op rd ra j cx = w ↔
      field w 0 8 = op.toNat ∧ field w 8 4 = rd ∧ field w 12 4 = ra ∧ field w 16 6 = j ∧ field w 22 8 = 0 ∧
        field w 30 2 = cx := by
  have hop := op.isLt
  have hw := w.isLt
  simp only [← BitVec.toNat_inj, wordT, field, BitVec.toNat_ofNat]
  omega

theorem wordW_eq_iff {rd ra ww len : Nat} (hrd : rd < 16) (hra : ra < 16) (hww : ww < 32) (hlen : len < 512) :
    wordW op rd ra ww len = w ↔
      field w 0 8 = op.toNat ∧ field w 8 4 = rd ∧ field w 12 4 = ra ∧ field w 16 5 = ww ∧ field w 21 9 = len ∧
        field w 30 2 = 0 := by
  have hop := op.isLt
  have hw := w.isLt
  simp only [← BitVec.toNat_inj, wordW, field, BitVec.toNat_ofNat]
  omega

theorem wordI_eq_iff {rd simm16 cx : Nat} (hrd : rd < 16) (hsimm16 : simm16 < 65536) (hcx : cx < 4) :
    wordI op rd simm16 cx = w ↔
      field w 0 8 = op.toNat ∧ field w 8 4 = rd ∧ field w 12 16 = simm16 ∧ field w 28 2 = 0 ∧ field w 30 2 = cx := by
  have hop := op.isLt
  have hw := w.isLt
  simp only [← BitVec.toNat_inj, wordI, field, BitVec.toNat_ofNat]
  omega

theorem wordR_of_fields {rd ra rb rc cs cx : Nat} (hop : field w 0 8 = op.toNat) (hrd : field w 8 4 = rd)
    (hra : field w 12 4 = ra) (hrb : field w 16 4 = rb) (hrc : field w 20 4 = rc) (hzr : field w 24 4 = 0)
    (hcs : field w 28 2 = cs) (hcx : field w 30 2 = cx) : wordR op rd ra rb rc cs cx = w := by
  subst hrd hra hrb hrc hcs hcx
  refine (wordR_eq_iff ?_ ?_ ?_ ?_ ?_ ?_).2 ⟨hop, rfl, rfl, rfl, rfl, hzr, rfl, rfl⟩ <;> exact field_lt ..

theorem wordT_of_fields {rd ra j cx : Nat} (hop : field w 0 8 = op.toNat) (hrd : field w 8 4 = rd)
    (hra : field w 12 4 = ra) (hj : field w 16 6 = j) (hzt : field w 22 8 = 0) (hcx : field w 30 2 = cx) :
    wordT op rd ra j cx = w := by
  subst hrd hra hj hcx
  refine (wordT_eq_iff ?_ ?_ ?_ ?_).2 ⟨hop, rfl, rfl, rfl, hzt, rfl⟩ <;> exact field_lt ..

theorem wordW_of_fields {rd ra ww len : Nat} (hop : field w 0 8 = op.toNat) (hrd : field w 8 4 = rd)
    (hra : field w 12 4 = ra) (hww : field w 16 5 = ww) (hlen : field w 21 9 = len) (hcx : field w 30 2 = 0) :
    wordW op rd ra ww len = w := by
  subst hrd hra hww hlen
  refine (wordW_eq_iff ?_ ?_ ?_ ?_).2 ⟨hop, rfl, rfl, rfl, rfl, hcx⟩ <;> exact field_lt ..

theorem wordI_of_fields {rd simm16 cx : Nat} (hop : field w 0 8 = op.toNat) (hrd : field w 8 4 = rd)
    (hsimm16 : field w 12 16 = simm16) (hcs : field w 28 2 = 0) (hcx : field w 30 2 = cx) :
    wordI op rd simm16 cx = w := by
  subst hrd hsimm16 hcx
  refine (wordI_eq_iff ?_ ?_ ?_).2 ⟨hop, rfl, rfl, hcs, rfl⟩ <;> exact field_lt ..

theorem toNat_simm16 (w : Word) : (BitVec.ofNat 16 (field w 12 16)).toNat = field w 12 16 :=
  Nat.mod_eq_of_lt (field_lt ..)

end

/-- A slot number fits its field (`NGCTX` and `NMCTX` are 2). -/
theorem slot_lt_four (c : Fin 2) : c.val < 4 := Fin.val_lt_of_le c (by decide)

/-! ### Decoding the word of a command -/

@[simp] theorem except_ok_bind {ε α β : Type} (a : α) (f : α → Except ε β) : (Except.ok a >>= f) = f a := rfl

theorem requireZero_of_zeros {fields : List Nat} (h : ∀ f ∈ fields, f = 0) : requireZero fields = .ok () :=
  (requireZero_ok_iff fields).2 h

/-- The fields of the word of a command are its operands and zeros, so that every test of its arm passes. -/
theorem decode_of_encode {i : Instr} {w : Word} (hi : i.WellFormed) (h : encode i = w) : decode w = .ok i := by
  cases i with
  | genSel | genRd =>
    simp only [encode, wordT_eq_iff, Fin.val_lt_of_le, slot_lt_four, Nat.reduceLeDiff] at h
    simp [decode, h, Instr.opcode, requireZero_of_zeros]
  | wnaf =>
    simp only [encode, wordW_eq_iff, Fin.val_lt_of_le, Nat.reduceLeDiff] at h
    simp [decode, h, Instr.opcode, requireZero_of_zeros]
  | pregLookup rd simm16 =>
    simp only [encode, wordI_eq_iff, Fin.val_lt_of_le, slot_lt_four, simm16.isLt, Nat.reduceLeDiff] at h
    simp [decode, h, Instr.opcode, requireZero_of_zeros]
  | batchNorm rd ra count =>
    simp only [encode, wordR_eq_iff, Fin.val_lt_of_le, Nat.reduceLeDiff, Nat.ofNat_pos] at h
    have hrange : BatchRangeOk rd ra count := of_decide_eq_true hi
    simpa [decode, h, Instr.opcode, requireZero_of_zeros, batchOperands_ok_iff] using hrange
  | _ =>
    simp only [encode, wordR_eq_iff, Fin.val_lt_of_le, slot_lt_four, Nat.reduceLeDiff, Nat.ofNat_pos] at h
    simp [decode, h, Instr.opcode, requireZero_of_zeros]

/-- Settles O1: the word's fields are the command's operands, and each test of the decoder passes on them. -/
theorem decodeInvertsEncode : Obligations.DecodeInvertsEncode := by
  unfold Obligations.DecodeInvertsEncode
  exact fun i hi => decode_of_encode hi rfl

/-! ### What a word decodes to, test by test (30_encoding.md R115) -/

theorem except_bind_eq_ok {ε α β : Type} {x : Except ε α} {f : α → Except ε β} {b : β} :
    (x >>= f) = .ok b ↔ ∃ a, x = .ok a ∧ f a = .ok b := by
  cases x with
  | ok a => simp
  | error e => exact iff_of_false nofun fun ⟨_, h, _⟩ => nomatch h

/-- The fields `zeros` of `w`, each as (lowest bit, number of bits), are 0 (30_encoding.md R115 (b)). -/
def ZeroFields (w : Word) (zeros : List (Nat × Nat)) : Prop := zeros.Forall fun z => field w z.1 z.2 = 0

/-- The fields `limits` of `w`, each as (lowest bit, number of bits, limit), are in range (R115 (c), (d)). -/
def FieldsInRange (w : Word) (limits : List (Nat × Nat × Nat)) : Prop :=
  limits.Forall fun l => field w l.1 l.2.1 < l.2.2

/-- The reading `r` of the word `w` succeeds exactly where `legal` holds, and then only with a well-formed command whose
word is `w`. -/
structure ReadsWord (w : Word) (r : Except Illegal Instr) (legal : Prop) : Prop where
  legal_iff : legal ↔ ∃ i, r = .ok i
  encodes : ∀ i, r = .ok i → i.WellFormed ∧ encode i = w

section
variable {w : Word} {legal : Prop} {lo cnt k : Nat} {f : Fin k → Except Illegal Instr}
  {limits : List (Nat × Nat × Nat)}

theorem ReadsWord.congr {r : Except Illegal Instr} {legal' : Prop} (h : ReadsWord w r legal) (hl : legal' ↔ legal) :
    ReadsWord w r legal' :=
  ⟨hl.trans h.legal_iff, h.encodes⟩

theorem readsWord_ok {i : Instr} {v : Word} (hi : i.WellFormed ∧ encode i = v) (hw : v = w) :
    ReadsWord w (.ok i) (FieldsInRange w []) :=
  ⟨iff_of_true trivial ⟨i, rfl⟩, fun _ hj => Except.ok.inj hj ▸ hw ▸ hi⟩

/-- A test that passes exactly where `passes` holds, and a reading that goes on from there. -/
theorem readsWord_bind {α : Type} {x : Except Illegal α} {g : α → Except Illegal Instr} {passes : Prop}
    (hx : passes ↔ ∃ a, x = .ok a) (hg : ∀ a, x = .ok a → ReadsWord w (g a) legal) :
    ReadsWord w (x >>= g) (passes ∧ legal) := by
  refine ⟨⟨fun ⟨hpass, hlegal⟩ => ?_, fun ⟨i, hi⟩ => ?_⟩, fun i hi => ?_⟩
  · obtain ⟨a, ha⟩ := hx.1 hpass
    obtain ⟨i, hi⟩ := (hg a ha).legal_iff.1 hlegal
    exact ⟨i, except_bind_eq_ok.2 ⟨a, ha, hi⟩⟩
  · obtain ⟨a, ha, hga⟩ := except_bind_eq_ok.1 hi
    exact ⟨hx.2 ⟨a, ha⟩, (hg a ha).legal_iff.2 ⟨i, hga⟩⟩
  · obtain ⟨a, ha, hga⟩ := except_bind_eq_ok.1 hi
    exact (hg a ha).encodes i hga

/-- The test of the unused fields (30_encoding.md R115 (b)). -/
theorem readsWord_requireZero {r : Except Illegal Instr} (zeros : List (Nat × Nat))
    (h : ZeroFields w zeros → ReadsWord w r legal) :
    ReadsWord w (requireZero (zeros.map fun z => field w z.1 z.2) >>= fun _ => r) (ZeroFields w zeros ∧ legal) := by
  have hok : requireZero (zeros.map fun z => field w z.1 z.2) = .ok () ↔ ZeroFields w zeros := by
    rw [requireZero_ok_iff, List.forall_mem_map, ZeroFields, List.forall_iff_forall_mem]
  exact readsWord_bind ⟨fun hz => ⟨(), hok.2 hz⟩, fun ⟨_, hz⟩ => hok.1 hz⟩ fun _ hz => h (hok.1 hz)

theorem fieldsInRange_cons : FieldsInRange w ((lo, cnt, k) :: limits) ↔ field w lo cnt < k ∧ FieldsInRange w limits :=
  List.forall_cons ..

/-- A test that passes with the number a field holds, and exactly where it is below the limit. -/
theorem readsWord_limit {x : Except Illegal (Fin k)} (hx : ∀ v, x = .ok v ↔ v.val = field w lo cnt)
    (h : ∀ v : Fin k, field w lo cnt = v → ReadsWord w (f v) legal) :
    ReadsWord w (x >>= f) (field w lo cnt < k ∧ legal) :=
  readsWord_bind ⟨fun hlt => ⟨⟨_, hlt⟩, (hx _).2 rfl⟩, fun ⟨v, hv⟩ => (hx v).1 hv ▸ v.isLt⟩
    fun v hv => h v ((hx v).1 hv).symm

/-- A register selector (30_encoding.md R112). -/
theorem readsWord_selector (h : ∀ v : Fin k, field w lo cnt = v → ReadsWord w (f v) (FieldsInRange w limits)) :
    ReadsWord w (selector k (field w lo cnt) >>= f) (FieldsInRange w ((lo, cnt, k) :: limits)) :=
  (readsWord_limit (selector_ok_iff _ _) h).congr fieldsInRange_cons

/-- A slot number (30_encoding.md R112). -/
theorem readsWord_slot (h : ∀ v : Fin k, field w lo cnt = v → ReadsWord w (f v) (FieldsInRange w limits)) :
    ReadsWord w (slot k (field w lo cnt) >>= f) (FieldsInRange w ((lo, cnt, k) :: limits)) :=
  (readsWord_limit (slot_ok_iff _ _) h).congr fieldsInRange_cons

/-- An immediate takes every value its field can hold (30_encoding.md R113). -/
theorem readsWord_immediate (hk : 2 ^ cnt ≤ k)
    (h : ∀ v : Fin k, field w lo cnt = v → ReadsWord w (f v) (FieldsInRange w limits)) :
    ReadsWord w (selector k (field w lo cnt) >>= f) (FieldsInRange w limits) :=
  (readsWord_selector h).congr (fieldsInRange_cons.trans (and_iff_right ((field_lt w lo cnt).trans_le hk))).symm

end

/-! ### The operand lists of format R that several commands have (30_encoding.md R114)

Each says how the arm of such a command `c` reads its word: what must be 0, what is limited, and that the fields it
reads make up the whole word. -/

section
variable {w : Word} {k₁ k₂ k₃ k₄ : Nat} (op : Byte)

theorem readsWord_rd_ra (c : Fin k₁ → Fin k₂ → Instr) (hop : field w 0 8 = op.toNat)
    (hc : ∀ rd ra, (c rd ra).WellFormed ∧ encode (c rd ra) = wordR op rd ra 0 0 0 0 :=
      by exact fun _ _ => ⟨rfl, rfl⟩) :
    ReadsWord w
      (do requireZero [field w 16 4, field w 20 4, field w 24 4, field w 28 2, field w 30 2]
          return c (← selector k₁ (field w 8 4)) (← selector k₂ (field w 12 4)))
      (ZeroFields w [(16, 4), (20, 4), (24, 4), (28, 2), (30, 2)] ∧ FieldsInRange w [(8, 4, k₁), (12, 4, k₂)]) :=
  readsWord_requireZero [(16, 4), (20, 4), (24, 4), (28, 2), (30, 2)] fun ⟨hrb, hrc, hzr, hcs, hcx⟩ =>
    readsWord_selector fun rd hrd => readsWord_selector fun ra hra =>
    readsWord_ok (hc rd ra) (wordR_of_fields hop hrd hra hrb hrc hzr hcs hcx)

theorem readsWord_rd_ra_rc (c : Fin k₁ → Fin k₂ → Fin k₃ → Instr) (hop : field w 0 8 = op.toNat)
    (hc : ∀ rd ra rc, (c rd ra rc).WellFormed ∧ encode (c rd ra rc) = wordR op rd ra 0 rc 0 0 :=
      by exact fun _ _ _ => ⟨rfl, rfl⟩) :
    ReadsWord w
      (do requireZero [field w 16 4, field w 24 4, field w 28 2, field w 30 2]
          return c (← selector k₁ (field w 8 4)) (← selector k₂ (field w 12 4)) (← selector k₃ (field w 20 4)))
      (ZeroFields w [(16, 4), (24, 4), (28, 2), (30, 2)] ∧
        FieldsInRange w [(8, 4, k₁), (12, 4, k₂), (20, 4, k₃)]) :=
  readsWord_requireZero [(16, 4), (24, 4), (28, 2), (30, 2)] fun ⟨hrb, hzr, hcs, hcx⟩ =>
    readsWord_selector fun rd hrd => readsWord_selector fun ra hra => readsWord_selector fun rc hrc =>
    readsWord_ok (hc rd ra rc) (wordR_of_fields hop hrd hra hrb hrc hzr hcs hcx)

theorem readsWord_rd_ra_rb (c : Fin k₁ → Fin k₂ → Fin k₃ → Instr) (hop : field w 0 8 = op.toNat)
    (hc : ∀ rd ra rb, (c rd ra rb).WellFormed ∧ encode (c rd ra rb) = wordR op rd ra rb 0 0 0 :=
      by exact fun _ _ _ => ⟨rfl, rfl⟩) :
    ReadsWord w
      (do requireZero [field w 20 4, field w 24 4, field w 28 2, field w 30 2]
          return c (← selector k₁ (field w 8 4)) (← selector k₂ (field w 12 4)) (← selector k₃ (field w 16 4)))
      (ZeroFields w [(20, 4), (24, 4), (28, 2), (30, 2)] ∧
        FieldsInRange w [(8, 4, k₁), (12, 4, k₂), (16, 4, k₃)]) :=
  readsWord_requireZero [(20, 4), (24, 4), (28, 2), (30, 2)] fun ⟨hrc, hzr, hcs, hcx⟩ =>
    readsWord_selector fun rd hrd => readsWord_selector fun ra hra => readsWord_selector fun rb hrb =>
    readsWord_ok (hc rd ra rb) (wordR_of_fields hop hrd hra hrb hrc hzr hcs hcx)

theorem readsWord_rd_ra_rb_rc (c : Fin k₁ → Fin k₂ → Fin k₃ → Fin k₄ → Instr) (hop : field w 0 8 = op.toNat)
    (hc : ∀ rd ra rb rc, (c rd ra rb rc).WellFormed ∧ encode (c rd ra rb rc) = wordR op rd ra rb rc 0 0 :=
      by exact fun _ _ _ _ => ⟨rfl, rfl⟩) :
    ReadsWord w
      (do requireZero [field w 24 4, field w 28 2, field w 30 2]
          return c (← selector k₁ (field w 8 4)) (← selector k₂ (field w 12 4)) (← selector k₃ (field w 16 4))
            (← selector k₄ (field w 20 4)))
      (ZeroFields w [(24, 4), (28, 2), (30, 2)] ∧
        FieldsInRange w [(8, 4, k₁), (12, 4, k₂), (16, 4, k₃), (20, 4, k₄)]) :=
  readsWord_requireZero [(24, 4), (28, 2), (30, 2)] fun ⟨hzr, hcs, hcx⟩ =>
    readsWord_selector fun rd hrd => readsWord_selector fun ra hra => readsWord_selector fun rb hrb =>
    readsWord_selector fun rc hrc =>
    readsWord_ok (hc rd ra rb rc) (wordR_of_fields hop hrd hra hrb hrc hzr hcs hcx)

theorem readsWord_ra (c : Fin k₁ → Instr) (hop : field w 0 8 = op.toNat)
    (hc : ∀ ra, (c ra).WellFormed ∧ encode (c ra) = wordR op 0 ra 0 0 0 0 :=
      by exact fun _ => ⟨rfl, rfl⟩) :
    ReadsWord w
      (do requireZero [field w 8 4, field w 16 4, field w 20 4, field w 24 4, field w 28 2, field w 30 2]
          return c (← selector k₁ (field w 12 4)))
      (ZeroFields w [(8, 4), (16, 4), (20, 4), (24, 4), (28, 2), (30, 2)] ∧ FieldsInRange w [(12, 4, k₁)]) :=
  readsWord_requireZero [(8, 4), (16, 4), (20, 4), (24, 4), (28, 2), (30, 2)]
    fun ⟨hrd, hrb, hrc, hzr, hcs, hcx⟩ => readsWord_selector fun ra hra =>
    readsWord_ok (hc ra) (wordR_of_fields hop hrd hra hrb hrc hzr hcs hcx)

theorem readsWord_cx (c : Fin k₁ → Instr) (hop : field w 0 8 = op.toNat)
    (hc : ∀ cx, (c cx).WellFormed ∧ encode (c cx) = wordR op 0 0 0 0 0 cx :=
      by exact fun _ => ⟨rfl, rfl⟩) :
    ReadsWord w
      (do requireZero [field w 8 4, field w 12 4, field w 16 4, field w 20 4, field w 24 4, field w 28 2]
          return c (← slot k₁ (field w 30 2)))
      (ZeroFields w [(8, 4), (12, 4), (16, 4), (20, 4), (24, 4), (28, 2)] ∧ FieldsInRange w [(30, 2, k₁)]) :=
  readsWord_requireZero [(8, 4), (12, 4), (16, 4), (20, 4), (24, 4), (28, 2)]
    fun ⟨hrd, hra, hrb, hrc, hzr, hcs⟩ => readsWord_slot fun cx hcx =>
    readsWord_ok (hc cx) (wordR_of_fields hop hrd hra hrb hrc hzr hcs hcx)

theorem readsWord_cx_cs (c : Fin k₁ → Fin k₁ → Instr) (hop : field w 0 8 = op.toNat)
    (hc : ∀ cx cs, (c cx cs).WellFormed ∧ encode (c cx cs) = wordR op 0 0 0 0 cs cx :=
      by exact fun _ _ => ⟨rfl, rfl⟩) :
    ReadsWord w
      (do requireZero [field w 8 4, field w 12 4, field w 16 4, field w 20 4, field w 24 4]
          return c (← slot k₁ (field w 30 2)) (← slot k₁ (field w 28 2)))
      (ZeroFields w [(8, 4), (12, 4), (16, 4), (20, 4), (24, 4)] ∧ FieldsInRange w [(28, 2, k₁), (30, 2, k₁)]) :=
  (readsWord_requireZero [(8, 4), (12, 4), (16, 4), (20, 4), (24, 4)] fun ⟨hrd, hra, hrb, hrc, hzr⟩ =>
    readsWord_slot fun cx hcx => readsWord_slot fun cs hcs =>
    readsWord_ok (hc cx cs) (wordR_of_fields hop hrd hra hrb hrc hzr hcs hcx)).congr
    (and_congr_right fun _ => and_comm)

end

/-! ### Every word is read as a row of the opcode map, or its opcode is reserved (30_encoding.md R114, R115) -/

/-- The reading `r` of `w` is that of the row of its opcode, or rejects a reserved opcode. -/
def ReadsRow (w : Word) (r : Except Illegal Instr) : Prop :=
  (∃ row ∈ opcodeRows, field w 0 8 = row.op ∧ ReadsWord w r (¬ BadFields w row)) ∨
    ((∀ row ∈ opcodeRows, field w 0 8 ≠ row.op) ∧ ∃ e, r = .error e)

theorem not_badFields_iff {w : Word} {row : OpcodeRow} :
    ¬ BadFields w row ↔ ZeroFields w row.zeros ∧ FieldsInRange w row.limits ∧
      (row.op = 0x14 → BatchRangeOk (field w 8 4) (field w 12 4) (field w 16 4)) := by
  have hbatch : BatchRangeOk (field w 8 4) (field w 12 4) (field w 16 4) ↔
      ¬ (field w 16 4 = 0 ∨ 8 < field w 16 4 ∨ 8 < field w 8 4 + field w 16 4 ∨ 8 < field w 12 4 + field w 16 4) := by
    omega
  rw [hbatch]
  simp [BadFields, ZeroFields, FieldsInRange, List.forall_iff_forall_mem]

/-- A row with no condition but zeros and limits. -/
theorem readsRow_of_readsWord {w : Word} {r : Except Illegal Instr} {op : Nat} {zeros : List (Nat × Nat)}
    {limits : List (Nat × Nat × Nat)} (hop : field w 0 8 = op)
    (h : ReadsWord w r (ZeroFields w zeros ∧ FieldsInRange w limits))
    (hrow : ⟨op, zeros, limits⟩ ∈ opcodeRows := by decide) (hbatch : op ≠ 0x14 := by decide) : ReadsRow w r :=
  .inl ⟨_, hrow, hop, h.congr (by simp [not_badFields_iff, hbatch])⟩

theorem readsWord_batchOperands {w : Word} {rd : ASel} {ra : JSel} {count : Fin 16} {rd' ra' count' : Nat}
    (hrd : rd' = rd) (hra : ra' = ra) (hcount : count' = count) (h : encode (.batchNorm rd ra count) = w) :
    ReadsWord w (batchOperands rd ra count) (BatchRangeOk rd' ra' count') := by
  subst hrd hra hcount
  refine ⟨by simp [batchOperands_ok_iff], fun i hi => ?_⟩
  obtain ⟨hrange, rfl⟩ := (batchOperands_ok_iff ..).1 hi
  exact ⟨decide_eq_true hrange, h⟩

/-- `BATCH_NORM`, the one row with a further condition (30_encoding.md R115 (e)). -/
theorem readsRow_batchNorm {w : Word} (hop : field w 0 8 = 0x14) :
    ReadsRow w
      (do requireZero [field w 20 4, field w 24 4, field w 28 2, field w 30 2]
          batchOperands (← selector 8 (field w 8 4)) (← selector 8 (field w 12 4)) (← selector 16 (field w 16 4))) := by
  refine .inl ⟨⟨0x14, [(20, 4), (24, 4), (28, 2), (30, 2)], [(8, 4, 8), (12, 4, 8)]⟩, by decide, hop, ?_⟩
  have hcount : field w 16 4 < 16 := field_lt ..
  refine (readsWord_requireZero [(20, 4), (24, 4), (28, 2), (30, 2)] fun ⟨hrc, hzr, hcs, hcx⟩ =>
    readsWord_limit (selector_ok_iff _ _) fun rd hrd => readsWord_limit (selector_ok_iff _ _) fun ra hra =>
    readsWord_limit (selector_ok_iff _ _) fun count hrb => readsWord_batchOperands hrd hra hrb
      (wordR_of_fields hop hrd hra hrb hrc hzr hcs hcx)).congr ?_
  simp [not_badFields_iff, FieldsInRange, hcount, and_assoc]

/-- Every arm of the decoder reads its row of the opcode map: it tests the fields the row names. -/
theorem decode_readsRow (w : Word) : ReadsRow w (decode w) := by
  unfold decode
  extract_lets
  split
  next h => exact readsRow_of_readsWord h (readsWord_rd_ra 0x10 .gejSetGe h)
  next h => exact readsRow_of_readsWord h (readsWord_rd_ra 0x11 .geSetGej h)
  next h => exact readsRow_of_readsWord h (readsWord_rd_ra 0x12 .geSetGejVar h)
  next h => exact readsRow_of_readsWord h (readsWord_rd_ra_rc 0x13 .geSetGejZinv h)
  next h => exact readsRow_batchNorm h
  next h => exact readsRow_of_readsWord h (readsWord_rd_ra 0x15 .geNeg h)
  next h => exact readsRow_of_readsWord h (readsWord_rd_ra 0x16 .gejNeg h)
  next h => exact readsRow_of_readsWord h (readsWord_ra 0x17 .geValid h)
  next h => exact readsRow_of_readsWord h (readsWord_rd_ra_rc 0x18 .gejRescale h)
  next h => exact readsRow_of_readsWord h (readsWord_rd_ra 0x19 .geToSt h)
  next h => exact readsRow_of_readsWord h (readsWord_rd_ra 0x1A .geFromSt h)
  next h => exact readsRow_of_readsWord h (readsWord_rd_ra 0x1B .stCmov h)
  next h => exact readsRow_of_readsWord h (readsWord_rd_ra_rb 0x1C .stCsel h)
  next h => exact readsRow_of_readsWord h (readsWord_rd_ra_rc 0x20 .gejDblVar h)
  next h => exact readsRow_of_readsWord h (readsWord_rd_ra_rb_rc 0x21 .gejAddVar h)
  next h => exact readsRow_of_readsWord h (readsWord_rd_ra_rb 0x22 .gejAddGeVar h)
  next h => exact readsRow_of_readsWord h (readsWord_rd_ra_rb_rc 0x23 .gejAddZinvVar h)
  next h => exact readsRow_of_readsWord h (readsWord_rd_ra_rb 0x24 .gejAddGe h)
  next h => exact readsRow_of_readsWord h (readsWord_rd_ra_rb 0x30 .scAdd h)
  next h => exact readsRow_of_readsWord h (readsWord_rd_ra_rb 0x31 .scMul h)
  next h => exact readsRow_of_readsWord h (readsWord_rd_ra 0x32 .scNeg h)
  next h => exact readsRow_of_readsWord h (readsWord_rd_ra 0x33 .scInv h)
  next h => exact readsRow_of_readsWord h (readsWord_rd_ra 0x34 .scInvVar h)
  next h => exact readsRow_of_readsWord h (readsWord_ra 0x35 .scIsEven h)
  next h =>
    exact readsRow_of_readsWord h (readsWord_requireZero [(30, 2)] fun hcx =>
      readsWord_selector fun rd hrd => readsWord_selector fun ra hra =>
      readsWord_immediate (by decide) fun ww hww => readsWord_immediate (by decide) fun len hlen =>
      readsWord_ok ⟨rfl, rfl⟩ (wordW_of_fields h hrd hra hww hlen hcx))
  next h => exact readsRow_of_readsWord h (readsWord_cx 0x50 .genBuild h)
  next h => exact readsRow_of_readsWord h (readsWord_cx 0x51 .genBlind h)
  next h =>
    exact readsRow_of_readsWord h (readsWord_requireZero
      [(16, 4), (20, 4), (24, 4), (28, 2)] fun ⟨hrb, hrc, hzr, hcs⟩ =>
      readsWord_selector fun rd hrd => readsWord_selector fun ra hra => readsWord_slot fun cx hcx =>
      readsWord_ok ⟨rfl, rfl⟩ (wordR_of_fields h hrd hra hrb hrc hzr hcs hcx))
  next h => exact readsRow_of_readsWord h (readsWord_cx_cs 0x53 .genClone h)
  next h => exact readsRow_of_readsWord h (readsWord_cx 0x54 .genClear h)
  next h =>
    exact readsRow_of_readsWord h (readsWord_requireZero [(22, 8)] fun hzt =>
      readsWord_selector fun rd hrd => readsWord_selector fun ra hra =>
      readsWord_immediate (by decide) fun j hj => readsWord_slot fun cx hcx =>
      readsWord_ok ⟨rfl, rfl⟩ (wordT_of_fields h hrd hra hj hzt hcx))
  next h =>
    exact readsRow_of_readsWord h (readsWord_requireZero [(22, 8)] fun hzt =>
      readsWord_selector fun rd hrd => readsWord_immediate (by decide) fun e he =>
      readsWord_immediate (by decide) fun j hj => readsWord_slot fun cx hcx =>
      readsWord_ok ⟨rfl, rfl⟩ (wordT_of_fields h hrd he hj hzt hcx))
  next h => exact readsRow_of_readsWord h (readsWord_cx 0x60 .mulBuild h)
  next h => exact readsRow_of_readsWord h (readsWord_cx_cs 0x61 .mulClone h)
  next h => exact readsRow_of_readsWord h (readsWord_cx 0x62 .mulClear h)
  next h =>
    exact readsRow_of_readsWord h (readsWord_requireZero [(28, 2)] fun hcs =>
      readsWord_selector fun rd hrd => readsWord_slot fun cx hcx =>
      readsWord_ok ⟨rfl, rfl⟩ (wordI_of_fields h hrd (toNat_simm16 w).symm hcs hcx))
  next h =>
    exact readsRow_of_readsWord h (readsWord_requireZero [(24, 4), (28, 2)] fun ⟨hzr, hcs⟩ =>
      readsWord_selector fun rd hrd => readsWord_selector fun ra hra => readsWord_selector fun rb hrb =>
      readsWord_selector fun rc hrc => readsWord_slot fun cx hcx =>
      readsWord_ok ⟨rfl, rfl⟩ (wordR_of_fields h hrd hra hrb hrc hzr hcs hcx))
  next =>
    refine .inr ⟨fun row hrow => ?_, _, rfl⟩
    fin_cases hrow <;> assumption

/-- A word decodes exactly to the well-formed command whose word it is. -/
theorem decode_eq_ok_iff {w : Word} {i : Instr} : decode w = .ok i ↔ i.WellFormed ∧ encode i = w := by
  refine ⟨fun h => ?_, fun ⟨hi, hw⟩ => decode_of_encode hi hw⟩
  rcases decode_readsRow w with ⟨row, -, -, hreads⟩ | ⟨-, e, he⟩
  · exact hreads.encodes i h
  · rw [he] at h
    simp at h

/-- Settles O2: each row of the opcode map reads only words of its command. -/
theorem encodeInvertsDecode : Obligations.EncodeInvertsDecode := by
  unfold Obligations.EncodeInvertsDecode
  exact fun w i => decode_eq_ok_iff.1

/-! ### The illegal words (30_encoding.md R115) -/

/-- No two rows have one opcode. -/
theorem opcodeRows_op_injective {row row' : OpcodeRow} (h : row ∈ opcodeRows) (h' : row' ∈ opcodeRows)
    (hop : row.op = row'.op) : row = row' := by
  have hnodup : (opcodeRows.map OpcodeRow.op).Nodup := by decide
  exact List.inj_on_of_nodup_map hnodup h h' hop

theorem illegalWord_iff_badFields {w : Word} {row : OpcodeRow} (hrow : row ∈ opcodeRows) (hop : field w 0 8 = row.op) :
    IllegalWord w ↔ BadFields w row := by
  refine ⟨?_, fun hbad => .inr ⟨row, hrow, hop, hbad⟩⟩
  rintro (hnone | ⟨row', hrow', hop', hbad⟩)
  · exact absurd hop (hnone row hrow)
  · exact opcodeRows_op_injective hrow' hrow (hop'.symm.trans hop) ▸ hbad

theorem exists_error_iff {ε α : Type} {r : Except ε α} : (∃ e, r = .error e) ↔ ¬ ∃ a, r = .ok a := by
  cases r <;> simp

theorem illegalWord_iff (w : Word) : IllegalWord w ↔ ∃ e, decode w = .error e := by
  rcases decode_readsRow w with ⟨row, hrow, hop, hreads⟩ | ⟨hnone, herror⟩
  · rw [illegalWord_iff_badFields hrow hop, exists_error_iff, ← hreads.legal_iff, not_not]
  · exact iff_of_true (.inl hnone) herror

/-! ### The `CMD` write as a step (30_encoding.md R110) -/

theorem target_cmd : target 32 0 = some .cmd := by decide

/-- The step that takes a `CMD` write. -/
theorem step_cmd {s : State} {w : Word} {rest : List HostAccess} (h : s.host = .write 32 0 w :: rest) :
    step s = cmdWrite w { s with host := rest, response := .accepted } := by
  rw [step, takeAccess_cons h, hostAccess, hostWrite, target_cmd]
  rfl

/-- Settles O3: a word is rejected exactly where the row of its opcode, or the lack of one, makes it illegal, and the
`CMD` write of a rejected word takes F_ILLEGAL. -/
theorem illegalWordsRaiseIllegal : Obligations.IllegalWordsRaiseIllegal := by
  unfold Obligations.IllegalWordsRaiseIllegal
  refine ⟨illegalWord_iff, fun s w rest hhost hfault hw => ?_⟩
  obtain ⟨e, he⟩ := (illegalWord_iff w).1 hw
  exact ⟨_, (step_cmd hhost).trans (cmdWrite_illegal w _ e hfault he), rfl, rfl, rfl⟩

/-- Settles O5: a `CMD` write is `cmdWrite`, and the decoded command's opcode is the low byte of its word. -/
theorem stepRunsTheDecodedCommand : Obligations.StepRunsTheDecodedCommand := by
  unfold Obligations.StepRunsTheDecodedCommand
  intro s w rest hhost
  rw [step_cmd hhost]
  refine ⟨fun hfault => cmdWrite_inFault w _ hfault, fun hfault i hi => ⟨?_, cmdWrite_legal w _ i hfault hi⟩⟩
  rw [field_opcode, ← (decode_eq_ok_iff.1 hi).2, encode_lowByte]

/-! ### The worked encodings (30_encoding.md R122) -/

theorem hasWord_of_toNat_encode {i : Instr} {w : Nat} (hi : i.WellFormed) (h : (encode i).toNat = w) : HasWord i w :=
  ⟨h, decode_of_encode hi (by rw [← h, BitVec.ofNat_toNat, BitVec.setWidth_eq])⟩

/-- Settles O4: the encoder is computed, and its word decodes as every command's does. -/
theorem workedEncodings : Obligations.WorkedEncodings := by
  unfold Obligations.WorkedEncodings
  refine ⟨?_, ?_, ?_, ?_, ?_, ?_⟩ <;> exact hasWord_of_toNat_encode rfl rfl

/-! ### The frame of a command (30_encoding.md R119) -/

theorem applyAll_host (s : State) (ws : List Write) : (s.applyAll ws).host = s.host := by
  induction ws generalizing s with
  | nil => rfl
  | cons w rest ih =>
    have hw : (s.apply w).host = s.host := by cases w <;> rfl
    exact (ih _).trans hw

theorem exec_host {i : Instr} {s t : State} (h : exec i s = .next t) : t.host = s.host := by
  rcases exec_cases h with ⟨ws, tr, -, rfl⟩ | ⟨f, tr, rfl⟩
  · rw [State.recordLeak_host, applyAll_host]
  · rw [State.recordLeak_host, State.takeFault_host]

/-- A command that raises a fault changes no place at all (60_exceptions.md R340). -/
theorem exec_fault_frame {i : Instr} {s t : State} (h : exec i s = .next t) (hf : t.leakFault ≠ none) (d : Place) :
    SameAt t s d := by
  rcases exec_cases h with ⟨ws, tr, -, rfl⟩ | ⟨f, tr, rfl⟩
  · exact absurd (State.leakFault_recordLeak ..) hf
  · exact (recordLeak_sameAt ..).trans (takeFault_sameAt ..)

/-- Settles O14: a command writes a list of results to its destinations or takes a fault. -/
theorem onlyNamedDestinationsAreWritten : Obligations.OnlyNamedDestinationsAreWritten := by
  unfold Obligations.OnlyNamedDestinationsAreWritten
  exact fun i s t h => ⟨fun d hd => (exec_frame d h hd).symm, fun hf d => (exec_fault_frame h hf d).symm,
    exec_host h, exec_response h, exec_staticPrecomp h⟩

end Sys2Proof.Machine
end

section
/-! PROOFS. What the proofs about single commands share: the word of a command of format R, from how a meaning ends to
what the claims say of it, and register contents as integers mod `p` (30_encoding.md R111; 10_state.md R34 to R39;
00_scope.md R17). -/

namespace Sys2Proof.Machine

/-! ### The word of a command of format R (30_encoding.md R111) -/

/-- The word of a command of format R that names no slot, as the sum of its fields. -/
theorem hasWord_of_wordR {i : Instr} {rd ra rb rc w : Nat} (hi : i.WellFormed)
    (h : encode i = wordR i.opcode rd ra rb rc 0 0)
    (hw : i.opcode.toNat + 0x100 * rd + 0x1000 * ra + 0x10000 * rb + 0x100000 * rc = w)
    (hrd : rd < 16 := by omega) (hra : ra < 16 := by omega) (hrb : rb < 16 := by omega)
    (hrc : rc < 16 := by omega) : HasWord i w := by
  refine hasWord_of_toNat_encode hi ?_
  have hop := i.opcode.isLt
  rw [h, wordR, BitVec.toNat_ofNat, ← hw]
  omega

/-! ### From the end of a meaning to a claim -/

section
variable {i : Instr} {s : State} {tr : Trace}

theorem completes_writeA {rd : ASel} {v : Ge} {r : AReg} (h : exec i s = finish i s tr (.ok (s.writeA rd v)))
    (hv : geToReg v = r) : Completes i s (s.putA rd r) :=
  completes_of_ok h (hv ▸ rfl) rfl rfl

theorem completes_writeJ {rd : JSel} {v : Gej} {r : JReg} (h : exec i s = finish i s tr (.ok (s.writeJ rd v)))
    (hv : gejToReg v = r) : Completes i s (s.putJ rd r) :=
  completes_of_ok h (hv ▸ rfl) rfl rfl

theorem completes_writeT {rd : TSel} {v : St} {r : TReg} (h : exec i s = finish i s tr (.ok (s.writeT rd v)))
    (hv : stToReg v = r) : Completes i s (s.putT rd r) :=
  completes_of_ok h (hv ▸ rfl) rfl rfl

/-- The leak of a command without a free part is its word, its fault and its trace. -/
theorem leak_of_finish {t : State} {r : Except Fault State} (hi : leaksFreely i = false)
    (h : finish i s tr r = .next t) : t.leak = some ⟨encode i, t.leakFault, tr, none⟩ := by
  rcases (finish_next_iff i s t tr r).1 h with ⟨u, -, rfl⟩ | ⟨f, -, rfl⟩ <;>
    simp [State.recordLeak_leak, hi]

/-- A command without a free part whose trace is the same from every state is constant time. -/
theorem constantTime_of_finish (hi : leaksFreely i = false) (h : ∀ s, ∃ r, exec i s = finish i s tr r) :
    ConstantTime i := by
  intro s s' t t' ht ht' hfault
  obtain ⟨r, hr⟩ := h s
  obtain ⟨r', hr'⟩ := h s'
  rw [leak_of_finish hi (hr ▸ ht), leak_of_finish hi (hr' ▸ ht'), hfault]

end

/-! ### Register contents as integers mod `p` (10_state.md R34 to R39) -/

theorem emod_p_eq_zero_iff (v : Int) : v % Config.p = 0 ↔ (v : ZMod Config.p) = 0 := by
  rw [ZMod.intCast_zmod_eq_zero_iff_dvd, Int.dvd_iff_emod_eq_zero]

/-- Field elements are equal exactly where their casts are. -/
theorem Fe.cast_inj {a b : Fe} : (a.val : ZMod Config.p) = b.val ↔ a = b :=
  ⟨Fe.ext_cast, fun h => h ▸ rfl⟩

/-- The content of a field result is that of any integer with its cast. -/
theorem feToRaw_of_cast {a : Fe} {v : Int} (h : (a.val : ZMod Config.p) = v) : feToRaw a = rawP v :=
  feToRaw_eq_rawP a v ((emod_p_eq_zero_iff _).2 (by simp [h]))

@[simp] theorem coord_cast (raw : U256) : (coord raw : ZMod Config.p) = (feOfRaw raw).val := by
  rw [coord_eq, Int.cast_natCast]

@[simp] theorem fVal_cast (s : State) (i : FSel) : (s.fVal i : ZMod Config.p) = (s.readF i).val := by
  rw [fVal_eq, Int.cast_natCast]

theorem feToRaw_feOfRaw (raw : U256) : feToRaw (feOfRaw raw) = rawP (coord raw) :=
  feToRaw_of_cast (coord_cast raw).symm

/-- The content of an integer stands for that integer mod `p`. -/
@[simp] theorem coord_rawP (v : Int) : coord (rawP v) = v % Config.p := by
  have hp : (0 : Int) < Config.p := by exact_mod_cast p_pos
  obtain ⟨k, hk⟩ := Int.eq_ofNat_of_zero_le (Int.emod_nonneg v hp.ne')
  have hkp : k < Config.p := by
    have := Int.emod_lt_of_pos v hp
    omega
  rw [coord, rawP, hk, BitVec.ofInt_natCast, BitVec.toNat_ofNat, Nat.mod_eq_of_lt (hkp.trans p_lt),
    Int.emod_eq_of_lt (by positivity) (by exact_mod_cast hkp)]

@[simp] theorem geToReg_ainf : geToReg AINF = affineInf := rfl

/-- The content of a finite affine result is that of any integers with its casts. -/
theorem geToReg_finite {x y : Fe} {x' y' : Int} (hx : (x.val : ZMod Config.p) = x')
    (hy : (y.val : ZMod Config.p) = y') : geToReg ⟨x, y, false⟩ = affineRaw x' y' := by
  rw [affineRaw, ← feToRaw_of_cast hx, ← feToRaw_of_cast hy]
  rfl

/-- The content of a finite Jacobian result is that of any integers with its casts. -/
theorem gejToReg_finite {x y z : Fe} {x' y' z' : Int} (hx : (x.val : ZMod Config.p) = x')
    (hy : (y.val : ZMod Config.p) = y') (hz : (z.val : ZMod Config.p) = z') :
    gejToReg ⟨x, y, z, false⟩ = jacobianRaw x' y' z' := by
  rw [jacobianRaw, ← feToRaw_of_cast hx, ← feToRaw_of_cast hy, ← feToRaw_of_cast hz]
  rfl

/-- A storage value written back is reduced (10_state.md R37, R39). -/
theorem stToReg_stOfReg (r : TReg) : stToReg (stOfReg r) = storageRaw (coord r.x) (coord r.y) := by
  rw [storageRaw, ← feToRaw_feOfRaw, ← feToRaw_feOfRaw]
  rfl

theorem geOfReg_inf (r : AReg) : (geOfReg r).inf = r.inf := by
  unfold geOfReg; split <;> simp_all [AINF]

theorem gejOfReg_inf (r : JReg) : (gejOfReg r).inf = r.inf := by
  unfold gejOfReg; split <;> simp_all [JINF]

theorem geOfReg_of_inf {r : AReg} (h : r.inf = true) : geOfReg r = AINF := if_pos h

theorem geOfReg_of_finite {r : AReg} (h : r.inf = false) : geOfReg r = ⟨feOfRaw r.x, feOfRaw r.y, false⟩ :=
  if_neg (by simp [h])

theorem gejOfReg_of_inf {r : JReg} (h : r.inf = true) : gejOfReg r = JINF := if_pos h

theorem gejOfReg_of_finite {r : JReg} (h : r.inf = false) :
    gejOfReg r = ⟨feOfRaw r.x, feOfRaw r.y, feOfRaw r.z, false⟩ :=
  if_neg (by simp [h])

end Sys2Proof.Machine
end

section
/-! PROOFS. The conversions (40_group_convert.md): the register content each function on point values gives, and the
commands that write it. -/

namespace Sys2Proof.Machine

/-! ### What the functions on point values give, as register contents (40_group_convert.md R151 to R165) -/

theorem gejToReg_gejOfGe (r : AReg) : gejToReg (gejOfGe (geOfReg r)) =
    if r.inf then jacobianInf else jacobianRaw (coord r.x) (coord r.y) 1 := by
  cases h : r.inf with
  | true => rw [geOfReg_of_inf h]; rfl
  | false =>
    rw [geOfReg_of_finite h]
    exact gejToReg_finite (coord_cast _).symm (coord_cast _).symm (by simp [feOfNat_cast, -feOfNat_val])

theorem geToReg_geNeg (r : AReg) : geToReg (geNeg (geOfReg r)) =
    if r.inf then affineInf else affineRaw (coord r.x) (-coord r.y) := by
  cases h : r.inf with
  | true => rw [geOfReg_of_inf h]; rfl
  | false =>
    rw [geOfReg_of_finite h]
    exact geToReg_finite (coord_cast _).symm (by simp [fneg_cast, -fneg_val])

theorem gejToReg_gejNeg (r : JReg) : gejToReg (gejNeg (gejOfReg r)) =
    if r.inf then jacobianInf else jacobianRaw (coord r.x) (-coord r.y) (coord r.z) := by
  cases h : r.inf with
  | true => rw [gejOfReg_of_inf h]; rfl
  | false =>
    rw [gejOfReg_of_finite h]
    exact gejToReg_finite (coord_cast _).symm (by simp [fneg_cast, -fneg_val]) (coord_cast _).symm

theorem geToReg_geOfGejZinv (r : JReg) {zi : Fe} {k : Int} (hk : (zi.val : ZMod Config.p) = k) :
    geToReg (geOfGejZinv (gejOfReg r) zi) =
      if r.inf then affineInf else affineRaw (coord r.x * k ^ 2) (coord r.y * k ^ 3) := by
  cases h : r.inf with
  | true => rw [gejOfReg_of_inf h]; rfl
  | false =>
    rw [gejOfReg_of_finite h]
    refine geToReg_finite ?_ ?_
    · simp only [fmul_cast, fsqr_cast, coord_cast, hk, Int.cast_mul, Int.cast_pow]
    · simp only [fmul_cast, fsqr_cast, coord_cast, hk, Int.cast_mul, Int.cast_pow]
      ring

theorem gejToReg_gejRescale (r : JReg) {s : Fe} {k : Int} (hk : (s.val : ZMod Config.p) = k) :
    gejToReg (gejRescale (gejOfReg r) s) =
      if r.inf then jacobianInf else jacobianRaw (coord r.x * k ^ 2) (coord r.y * k ^ 3) (coord r.z * k) := by
  cases h : r.inf with
  | true => rw [gejOfReg_of_inf h]; rfl
  | false =>
    rw [gejOfReg_of_finite h]
    refine gejToReg_finite ?_ ?_ ?_
    · simp only [fmul_cast, fsqr_cast, coord_cast, hk, Int.cast_mul, Int.cast_pow]
    · simp only [fmul_cast, fsqr_cast, coord_cast, hk, Int.cast_mul, Int.cast_pow]
      ring
    · simp only [fmul_cast, coord_cast, hk, Int.cast_mul]

/-- Settles O27: each command writes one value, whose content is that of the stated integers. -/
theorem conversionsWithoutInversion : Obligations.ConversionsWithoutInversion := by
  unfold Obligations.ConversionsWithoutInversion
  intro s
  refine ⟨fun rd ra => ⟨hasWord_of_wordR rfl rfl rfl, ?_⟩, fun rd ra => ⟨hasWord_of_wordR rfl rfl rfl, ?_⟩,
    fun rd ra => ⟨hasWord_of_wordR rfl rfl rfl, ?_⟩⟩
  · exact completes_writeJ rfl (gejToReg_gejOfGe _)
  · exact completes_writeA rfl (geToReg_geNeg _)
  · exact completes_writeJ rfl (gejToReg_gejNeg _)

/-- Settles O29: the value written is `ge_of_gej_zinv` at the operand value of `F[rc]`. -/
theorem conversionByGivenInverse : Obligations.ConversionByGivenInverse := by
  unfold Obligations.ConversionByGivenInverse
  exact fun s rd ra rc => ⟨hasWord_of_wordR rfl rfl rfl,
    completes_writeA rfl (geToReg_geOfGejZinv _ (fVal_cast s rc).symm)⟩

/-! ### Conversion with an inversion (40_group_convert.md R152, R153, R160) -/

theorem needsZeroInverse_gejOfReg (j : JReg) : needsZeroInverse (gejOfReg j) = true ↔ HasZeroZ j := by
  rw [needsZeroInverse_iff, gejOfReg_inf, HasZeroZ, and_congr_right_iff]
  intro h
  rw [gejOfReg_of_finite h, coord_eq, Nat.cast_eq_zero]

/-- The value a conversion writes is the affine form of its operand. -/
theorem isAffineForm_affineOf {j : JReg} (h : ¬ HasZeroZ j) : IsAffineForm j (geToReg (affineOf (gejOfReg j))) := by
  cases hinf : j.inf with
  | true => simp [IsAffineForm, hinf, gejOfReg_of_inf, affineOf, geOfGejZinv, JINF]
  | false =>
    have hz : (gejOfReg j).z.val ≠ 0 := fun e =>
      h ((needsZeroInverse_gejOfReg j).1 ((needsZeroInverse_iff _).2 ⟨(gejOfReg_inf j).trans hinf, e⟩))
    obtain ⟨-, hx, hy⟩ := affineOf_finite (gejOfReg j) ((gejOfReg_inf j).trans hinf) hz
    rw [← Fe.cast_inj, fmul_cast, fsqr_cast] at hx
    rw [← Fe.cast_inj, fmul_cast, fmul_cast, fsqr_cast, ← pow_succ] at hy
    rw [gejOfReg_of_finite hinf] at hx hy ⊢
    simp only [IsAffineForm, hinf, Bool.false_eq_true, if_false, emod_p_eq_zero_iff]
    refine ⟨_, _, geToReg_finite (Int.cast_natCast _).symm (Int.cast_natCast _).symm, ?_, ?_⟩
    · push_cast [coord_cast]
      exact sub_eq_zero.2 hx
    · push_cast [coord_cast]
      exact sub_eq_zero.2 hy

/-- An affine form stays one when the coordinates are rescaled (40_group_convert.md R165). -/
theorem IsAffineForm.rescale {j : JReg} {a : AReg} (h : IsAffineForm j a) (k : Int) :
    IsAffineForm (if j.inf then jacobianInf
      else jacobianRaw (coord j.x * k ^ 2) (coord j.y * k ^ 3) (coord j.z * k)) a := by
  cases hinf : j.inf with
  | true => simpa [IsAffineForm, hinf, jacobianInf] using h
  | false =>
    simp only [IsAffineForm, hinf, Bool.false_eq_true, if_false, jacobianRaw, emod_p_eq_zero_iff] at h ⊢
    obtain ⟨x, y, ha, hx, hy⟩ := h
    refine ⟨x, y, ha, ?_, ?_⟩
    · push_cast [coord_rawP, ZMod.intCast_mod] at hx ⊢
      linear_combination (k : ZMod Config.p) ^ 2 * hx
    · push_cast [coord_rawP, ZMod.intCast_mod] at hy ⊢
      linear_combination (k : ZMod Config.p) ^ 3 * hy

theorem needsZeroInverse_readJ (s : State) (i : JSel) : needsZeroInverse (s.readJ i) = true ↔ HasZeroZ s.jReg[i] :=
  needsZeroInverse_gejOfReg _

theorem convertTo_of_zero {s : State} {ra : JSel} (h : HasZeroZ s.jReg[ra]) (rd : ASel) :
    convertTo s rd ra = .error .zero := by
  rw [convertTo_eq, if_pos ((needsZeroInverse_readJ s ra).2 h)]

theorem convertTo_of_not_zero {s : State} {ra : JSel} (h : ¬ HasZeroZ s.jReg[ra]) (rd : ASel) :
    convertTo s rd ra = .ok (s.writeA rd (affineOf (s.readJ ra))) := by
  rw [convertTo_eq, if_neg (mt (needsZeroInverse_readJ s ra).1 h)]

theorem exec_geSetGej (rd : ASel) (ra : JSel) (s : State) :
    exec (.geSetGej rd ra) s = finish (.geSetGej rd ra) s Trace.none (convertTo s rd ra) := rfl

theorem exec_geSetGejVar (rd : ASel) (ra : JSel) (s : State) :
    exec (.geSetGejVar rd ra) s = finish (.geSetGejVar rd ra) s Trace.none (convertTo s rd ra) := rfl

/-- Settles O28: both commands end with `convertTo`, which raises F_ZERO or writes the affine form. -/
theorem conversionsWithInversion : Obligations.ConversionsWithInversion := by
  unfold Obligations.ConversionsWithInversion
  intro s rd ra
  have hct := exec_geSetGej rd ra s
  have hvt := exec_geSetGejVar rd ra s
  refine ⟨hasWord_of_wordR rfl rfl rfl, hasWord_of_wordR rfl rfl rfl,
    constantTime_of_finish rfl fun s => ⟨_, exec_geSetGej rd ra s⟩, fun hz => ?_, fun hz => ?_⟩
  · rw [convertTo_of_zero hz] at hct hvt
    exact ⟨raisesFault_of_error hct, raisesFault_of_error hvt⟩
  · rw [convertTo_of_not_zero hz] at hct hvt
    exact ⟨_, isAffineForm_affineOf hz, completes_writeA hct rfl, completes_writeA hvt rfl⟩

/-! ### Batch conversion (40_group_convert.md R155) -/

theorem length_batchOperandsFrom (s : State) (first count : Nat) :
    (batchOperandsFrom s first count).length = count := by
  simp [batchOperandsFrom]

theorem getElem_batchOperandsFrom (s : State) {first count k : Nat} (h : k < (batchOperandsFrom s first count).length)
    {t : JSel} (ht : t.val = first + k) : (batchOperandsFrom s first count)[k] = s.readJ t := by
  have hsel : Fin.ofNat 8 (first + k) = t := by rw [← ht, Fin.ofNat_val_eq_self]
  simp only [batchOperandsFrom, List.getElem_map, List.getElem_range, hsel]

/-- A batch meets `z = 0` exactly where one of its registers holds a finite value with `z = 0`. -/
theorem any_needsZeroInverse_iff (s : State) {first count : Nat} (h : first + count ≤ 8) :
    (batchOperandsFrom s first count).any needsZeroInverse = true ↔
      ∃ t : JSel, first ≤ t.val ∧ t.val < first + count ∧ HasZeroZ s.jReg[t] := by
  simp only [List.any_eq_true, List.mem_iff_getElem]
  constructor
  · rintro ⟨g, ⟨k, hk, rfl⟩, hg⟩
    rw [length_batchOperandsFrom] at hk
    refine ⟨⟨first + k, by omega⟩, by simp, by simpa using hk, ?_⟩
    rwa [getElem_batchOperandsFrom s _ (t := ⟨first + k, by omega⟩) rfl, needsZeroInverse_readJ] at hg
  · rintro ⟨t, hle, hlt, hz⟩
    have hk : t.val - first < (batchOperandsFrom s first count).length := by
      rw [length_batchOperandsFrom]
      omega
    refine ⟨_, ⟨t.val - first, hk, rfl⟩, ?_⟩
    rw [getElem_batchOperandsFrom s hk (t := t) (by omega), needsZeroInverse_readJ]
    exact hz

theorem exec_batchNorm {rd : ASel} {ra : JSel} {count : Fin 16} (s : State) (h : BatchRangeOk rd ra count) :
    exec (.batchNorm rd ra count) s = finish (.batchNorm rd ra count) s Trace.none
      (if (batchOperandsFrom s ra count).any needsZeroInverse then .error .zero
      else .ok (writeBatch s rd ((batchOperandsFrom s ra count).map affineOf))) := by
  rw [exec, execBatchNorm, if_neg (not_not_intro h)]

theorem writeBatch_host (s : State) (first : Nat) (gs : List Ge) : (writeBatch s first gs).host = s.host := by
  rw [writeBatch_frame]

theorem writeBatch_response (s : State) (first : Nat) (gs : List Ge) :
    (writeBatch s first gs).response = s.response := by
  rw [writeBatch_frame]

/-- Settles O30: the batch raises F_ZERO where a register of its range needs it, and else `writeBatch` puts the affine
form of the `k`-th operand in the `k`-th destination. -/
theorem batchNormalisation : Obligations.BatchNormalisation := by
  unfold Obligations.BatchNormalisation
  intro s rd ra count hpos hcount hrd hra
  have hrange : BatchRangeOk rd ra count := ⟨hpos, hcount, hrd, hra⟩
  have hexec := exec_batchNorm s hrange
  refine ⟨hasWord_of_wordR (decide_eq_true hrange) rfl rfl, fun hz => ?_, fun hz => ?_⟩
  · rw [if_pos ((any_needsZeroInverse_iff s hra).2 hz)] at hexec
    exact raisesFault_of_error hexec
  · have hnone : ¬ (batchOperandsFrom s ra count).any needsZeroInverse = true := fun e =>
      have ⟨t, hle, hlt, hzero⟩ := (any_needsZeroInverse_iff s hra).1 e
      hz t hle hlt hzero
    rw [if_neg hnone] at hexec
    have hlen : ((batchOperandsFrom s ra count).map affineOf).length = count.val := by
      rw [List.length_map, length_batchOperandsFrom]
    obtain ⟨hout, hin⟩ := writeBatch_aReg ((batchOperandsFrom s ra count).map affineOf) s rd (by rwa [hlen])
    refine ⟨_, completes_of_ok hexec (congrArg State.arch (writeBatch_frame ..)) (writeBatch_host ..)
      (writeBatch_response ..), fun j t hle hlt ht => ?_, fun j hj => hout j (by rwa [hlen])⟩
    have hle' : rd.val ≤ j.val := hle
    rw [hin j (j.val - rd.val) (by omega) (by omega), List.getElem_map, getElem_batchOperandsFrom s _ ht]
    exact isAffineForm_affineOf (hz t (Fin.le_def.2 (by omega)) (by omega))

/-! ### Validity and rescaling (40_group_convert.md R164, R165) -/

theorem validFlag_geOfReg (r : AReg) : validFlag (geOfReg r) =
    (!r.inf && decide ((coord r.y ^ 2 - coord r.x ^ 3 - 7) % Config.p = 0)) := by
  cases h : r.inf with
  | true => rw [geOfReg_of_inf h]; rfl
  | false =>
    have hcast : (coord r.y ^ 2 - coord r.x ^ 3 - 7) % Config.p = 0 ↔
        fsqr (feOfRaw r.y) = fadd (fmul (fsqr (feOfRaw r.x)) (feOfRaw r.x)) (feOfNat Config.b) := by
      rw [emod_p_eq_zero_iff, ← Fe.cast_inj, fsqr_cast, fadd_cast, fmul_cast, fsqr_cast, feOfNat_cast, Config.b,
        ← pow_succ]
      push_cast [coord_cast]
      rw [sub_sub, sub_eq_zero]
    simp only [geOfReg_of_finite h, validFlag, Bool.false_eq_true, if_false, Bool.not_false, Bool.true_and, hcast,
      beq_eq_decide]

/-- Settles O31: the flag written is the curve equation in the operand's coordinates. -/
theorem pointValidity : Obligations.PointValidity := by
  unfold Obligations.PointValidity
  exact fun s ra => ⟨hasWord_of_wordR rfl rfl rfl,
    completes_of_ok (tr := Trace.none) rfl (congrArg (fun b => (s.writeT1 b).arch) (validFlag_geOfReg _)) rfl rfl⟩

theorem fiszero_readF (s : State) (rc : FSel) : fiszero (s.readF rc) = true ↔ s.fVal rc = 0 := by
  rw [fiszero_iff, fVal_eq, Nat.cast_eq_zero]

theorem exec_gejRescale (rd ra : JSel) (rc : FSel) (s : State) :
    exec (.gejRescale rd ra rc) s = finish (.gejRescale rd ra rc) s Trace.none
      (if fiszero (s.readF rc) then .error .zero else .ok (s.writeJ rd (gejRescale (s.readJ ra) (s.readF rc)))) := rfl

/-- Settles O32: the zero test comes first, and the value written has the affine form of the operand. -/
theorem pointRescale : Obligations.PointRescale := by
  unfold Obligations.PointRescale
  intro s rd ra rc r
  have hexec := exec_gejRescale rd ra rc s
  refine ⟨hasWord_of_wordR rfl rfl rfl, fun hz => ?_, fun hz => ⟨?_, fun a ha => ha.rescale _⟩⟩
  · rw [if_pos ((fiszero_readF s rc).2 hz)] at hexec
    exact raisesFault_of_error hexec
  · rw [if_neg (mt (fiszero_readF s rc).1 hz)] at hexec
    exact completes_writeJ hexec (gejToReg_gejRescale _ (fVal_cast s rc).symm)

/-! ### Storage form (40_group_convert.md R156 to R159) -/

theorem geToReg_geOfSt (r : TReg) : geToReg (geOfSt (stOfReg r)) = affineRaw (coord r.x) (coord r.y) :=
  geToReg_finite (coord_cast _).symm (coord_cast _).symm

theorem stToReg_of_finite {r : AReg} (h : r.inf = false) :
    stToReg ⟨(geOfReg r).x, (geOfReg r).y⟩ = storageRaw (coord r.x) (coord r.y) := by
  rw [geOfReg_of_finite h]
  exact stToReg_stOfReg ⟨r.x, r.y⟩

theorem readA_inf (s : State) (i : ASel) : (s.readA i).inf = s.aReg[i].inf := geOfReg_inf _

theorem exec_geToSt (rd : TSel) (ra : ASel) (s : State) :
    exec (.geToSt rd ra) s = finish (.geToSt rd ra) s Trace.none
      (if (s.readA ra).inf then .error .infinity else .ok (s.writeT rd ⟨(s.readA ra).x, (s.readA ra).y⟩)) := rfl

/-- Settles O33: the operand's `inf` is the register's, and both directions keep the two coordinates. -/
theorem storageForm : Obligations.StorageForm := by
  unfold Obligations.StorageForm
  intro s
  refine ⟨fun rd ra => ⟨hasWord_of_wordR rfl rfl rfl, fun hinf => ?_, fun hinf => ?_⟩,
    fun rd ra => ⟨hasWord_of_wordR rfl rfl rfl, completes_writeA rfl (geToReg_geOfSt _)⟩⟩
  · have hexec := exec_geToSt rd ra s
    rw [if_pos ((readA_inf s ra).trans hinf)] at hexec
    exact raisesFault_of_error hexec
  · have hexec := exec_geToSt rd ra s
    rw [if_neg (by rw [readA_inf, hinf]; decide)] at hexec
    exact completes_writeT hexec (stToReg_of_finite hinf)

theorem stToReg_stCmov (d e : TReg) (flag : Bool) : stToReg (stCmov (stOfReg d) (stOfReg e) flag) =
    if flag then storageRaw (coord e.x) (coord e.y) else storageRaw (coord d.x) (coord d.y) := by
  cases flag <;> exact stToReg_stOfReg _

/-- Settles O34: both commands write `st_cmov` of two operand values, with no other effect and no free part of the
leak. -/
theorem conditionalMoveAndSelect : Obligations.ConditionalMoveAndSelect := by
  unfold Obligations.ConditionalMoveAndSelect
  intro s rd ra rb
  exact ⟨hasWord_of_wordR rfl rfl rfl, hasWord_of_wordR rfl rfl rfl,
    constantTime_of_finish rfl fun s => ⟨_, rfl⟩, constantTime_of_finish rfl fun s => ⟨_, rfl⟩,
    completes_writeT rfl (stToReg_stCmov _ _ _), completes_writeT rfl (stToReg_stCmov _ _ _)⟩

/-! ### There and back (40_group_convert.md R166) -/

@[simp] theorem gejOfGe_inf (a : Ge) : (gejOfGe a).inf = a.inf := by
  cases h : a.inf <;> simp [gejOfGe, h, JINF]

theorem feOfNat_one_val : (feOfNat 1).val = 1 := by decide

/-- Converting to Jacobian gives a value whose conversion needs no inverse of 0. -/
theorem needsZeroInverse_gejOfGe (a : Ge) : needsZeroInverse (gejOfGe a) = false := by
  cases h : a.inf with
  | true => simp [needsZeroInverse, h]
  | false => simp [needsZeroInverse, fiszero, gejOfGe, h, feOfNat_one_val, -feOfNat_val]

/-- `finv` finds every inverse there is. -/
theorem finv_eq_of_mul_eq_one {z zi : Fe} (h : (zi.val : ZMod Config.p) * z.val = 1) : finv z = zi := by
  have hp : Fact (Nat.Prime Config.p) := ⟨p_prime⟩
  have hz : z.val ≠ 0 := fun e => right_ne_zero_of_mul_eq_one h (by rw [e, Nat.cast_zero])
  have hinv : (z.val : ZMod Config.p) * (finv z).val = 1 := by
    rw [← fmul_cast, fmul_finv z hz, feOfNat_cast, Nat.cast_one]
  exact Fe.ext_cast (by linear_combination (zi.val : ZMod Config.p) * hinv - ((finv z).val : ZMod Config.p) * h)

/-- Converting to Jacobian and back gives a finite value again, and the identity as `AINF`. -/
theorem affineOf_gejOfGe (a : Ge) : affineOf (gejOfGe a) = if a.inf then AINF else a := by
  cases h : a.inf with
  | true => simp [affineOf, geOfGejZinv, h]
  | false =>
    have hone : ((feOfNat 1).val : ZMod Config.p) = 1 := by rw [feOfNat_one_val, Nat.cast_one]
    have hinv : finv (feOfNat 1) = feOfNat 1 := finv_eq_of_mul_eq_one (by rw [hone, one_mul])
    have hx : fmul a.x (fsqr (feOfNat 1)) = a.x := Fe.ext_cast (by
      rw [fmul_cast, fsqr_cast, hone, one_pow, mul_one])
    have hy : fmul a.y (fmul (fsqr (feOfNat 1)) (feOfNat 1)) = a.y := Fe.ext_cast (by
      rw [fmul_cast, fmul_cast, fsqr_cast, hone, one_pow, mul_one, mul_one])
    simp only [affineOf, geOfGejZinv, gejOfGe, h, hinv, hx, hy, Bool.false_eq_true, if_false]
    exact congrArg (Ge.mk a.x a.y) h.symm

theorem readA_eq_ite (s : State) (i : ASel) : (if (s.readA i).inf then AINF else s.readA i) = s.readA i := by
  rw [readA_inf]
  split
  · exact (geOfReg_of_inf ‹_›).symm
  · rfl

theorem State.readJ_recordLeak (s : State) (i : Instr) (f : Option Fault) (tr : Trace) (k : JSel) :
    (s.recordLeak i f tr).readJ k = s.readJ k := by
  rw [State.readJ, State.recordLeak_jReg, State.readJ]

theorem State.readA_recordLeak (s : State) (i : Instr) (f : Option Fault) (tr : Trace) (k : ASel) :
    (s.recordLeak i f tr).readA k = s.readA k := by
  rw [State.readA, State.recordLeak_aReg, State.readA]

theorem gejSetGe_readJ (rd : JSel) (ra : ASel) (s : State) : ∃ t, exec (.gejSetGe rd ra) s = .next t ∧
    t.readJ rd = gejOfGe (s.readA ra) ∧ t.fault = s.fault := by
  refine ⟨_, finish_ok .., ?_, by simp⟩
  rw [State.readJ_recordLeak, State.readJ_writeJ, gejOfGe_inf]
  split
  · simp [gejOfGe, *]
  · rfl

/-- A command that ends with `convertTo` gives an affine value converted to Jacobian back without a fault. -/
theorem convertTo_back {i : Instr} {s t : State} {rd : JSel} {ra rd' : ASel}
    (h : exec i t = finish i t Trace.none (convertTo t rd' rd)) (hread : t.readJ rd = gejOfGe (s.readA ra)) :
    ∃ u, exec i t = .next u ∧ u.readA rd' = s.readA ra ∧ u.fault = t.fault := by
  rw [convertTo_eq, hread, needsZeroInverse_gejOfGe, affineOf_gejOfGe, readA_eq_ite, if_neg Bool.false_ne_true,
    finish_ok] at h
  exact ⟨_, h, by rw [State.readA_recordLeak, State.readA_writeA, readA_eq_ite], by simp⟩

/-- Conversion by the true inverse of `z` is the conversion with an inversion. -/
theorem geOfGejZinv_of_inverse {j : JReg} {zi : Fe} (h : (zi.val : ZMod Config.p) * (feOfRaw j.z).val = 1) :
    geOfGejZinv (gejOfReg j) zi = affineOf (gejOfReg j) := by
  cases hinf : j.inf with
  | true => simp [gejOfReg_of_inf hinf, affineOf, geOfGejZinv, JINF]
  | false => rw [gejOfReg_of_finite hinf, affineOf, finv_eq_of_mul_eq_one h]

theorem not_hasZeroZ_of_inverse {j : JReg} {k : Int} (h : k * coord j.z % Config.p = 1) : ¬ HasZeroZ j :=
  fun ⟨_, hz⟩ => by
    rw [hz, mul_zero, Int.zero_emod] at h
    exact zero_ne_one h

/-- Settles O35: the value in `J[rd]` has `z = 1`, whose inverse is 1; and the true inverse of `z` is `finv(z)`. -/
theorem conversionRoundTrip : Obligations.ConversionRoundTrip := by
  unfold Obligations.ConversionRoundTrip
  refine ⟨fun s rd ra rd' => ?_, fun s rd ra rc h => ?_⟩
  · obtain ⟨t, ht, hread, hfault⟩ := gejSetGe_readJ rd ra s
    obtain ⟨u, hu, huread, hufault⟩ := convertTo_back (exec_geSetGej rd' rd t) hread
    obtain ⟨v, hv, hvread, hvfault⟩ := convertTo_back (exec_geSetGejVar rd' rd t) hread
    exact ⟨t, u, v, ht, hu, hv, huread, hvread, hufault.trans hfault, hvfault.trans hfault⟩
  · have hu := exec_geSetGej rd ra s
    rw [convertTo_of_not_zero (not_hasZeroZ_of_inverse h), finish_ok] at hu
    have hcast := congrArg (Int.cast : Int → ZMod Config.p) h
    rw [ZMod.intCast_mod, Int.cast_mul, fVal_cast, coord_cast, Int.cast_one] at hcast
    refine ⟨_, _, finish_ok .., hu, ?_⟩
    rw [State.arch_recordLeak, State.arch_recordLeak, State.readJ, geOfGejZinv_of_inverse hcast]

end Sys2Proof.Machine
end

section
/-! PROOFS. The doubling and the four additions (41_group_add.md): the register content each function on point values
gives, the ratios, and the group law of the commands. -/

namespace Sys2Proof.Machine

/-! ### The part the three variable-time additions share (41_group_add.md R190, R197 to R199) -/

/-- What `add_tail` gives, or the double of `a` where it redirects. -/
def addOrDouble (a : Gej) (u1 u2 s1 s2 zf : Fe) : Gej × Fe := (addTail a u1 u2 s1 s2 zf).getD (gejDouble a)

theorem gejAdd_finite {a b : Gej} (ha : a.inf = false) (hb : b.inf = false) :
    gejAdd a b = addOrDouble a (fmul a.x (fsqr b.z)) (fmul b.x (fsqr a.z)) (fmul (fmul a.y (fsqr b.z)) b.z)
      (fmul (fmul b.y (fsqr a.z)) a.z) b.z := by
  simp only [gejAdd, ha, hb, Bool.false_eq_true, if_false, addOrDouble]
  split <;> simp [*]

theorem gejAddGe_finite {a : Gej} {b : Ge} (ha : a.inf = false) (hb : b.inf = false) :
    gejAddGe a b = (addOrDouble a a.x (fmul b.x (fsqr a.z)) a.y (fmul (fmul b.y (fsqr a.z)) a.z) (feOfNat 1)).1 := by
  simp only [gejAddGe, ha, hb, Bool.false_eq_true, if_false, addOrDouble]
  split <;> simp [*]

theorem gejAddZinv_finite {a : Gej} {b : Ge} {zi : Fe} (ha : a.inf = false) (hb : b.inf = false) :
    gejAddZinv a b zi = (addOrDouble a a.x (fmul b.x (fsqr (fmul a.z zi))) a.y
      (fmul (fmul b.y (fsqr (fmul a.z zi))) (fmul a.z zi)) (feOfNat 1)).1 := by
  simp only [gejAddZinv, ha, hb, Bool.false_eq_true, if_false, addOrDouble]
  split <;> simp [*]

theorem feOfNat_one_cast : ((feOfNat 1).val : ZMod Config.p) = 1 := by
  rw [feOfNat_cast, Nat.cast_one]

/-! ### What they give, as register contents (41_group_add.md R190, R196 to R199) -/

/-- The contents of `J[rd]` and `F[rc]` for a value and its ratio. -/
def rawWithRatio (r : Gej × Fe) : JReg × U256 := (gejToReg r.1, feToRaw r.2)

theorem feToRaw_one : feToRaw (feOfNat 1) = 1 := by decide

theorem gejToReg_gejOfReg (r : JReg) : gejToReg (gejOfReg r) = canonicalJ r := by
  cases h : r.inf with
  | true =>
    rw [gejOfReg_of_inf h, canonicalJ, if_pos h]
    rfl
  | false =>
    rw [gejOfReg_of_finite h, canonicalJ, if_neg (by simp [h])]
    exact gejToReg_finite (coord_cast _).symm (coord_cast _).symm (coord_cast _).symm

theorem rawWithRatio_gejDouble_finite {r : JReg} (h : r.inf = false) : rawWithRatio (gejDouble (gejOfReg r)) =
    (doubleFormula (coord r.x) (coord r.y) (coord r.z), rawP (2 * coord r.y)) := by
  simp only [gejOfReg_of_finite h, gejDouble, Bool.false_eq_true, if_false]
  refine congrArg₂ Prod.mk (gejToReg_finite ?_ ?_ ?_) (feToRaw_of_cast ?_) <;>
    · push_cast [fmul_cast, fsqr_cast, fsub_cast, fmulint_cast, coord_cast]
      ring

theorem rawWithRatio_gejDouble (r : JReg) : rawWithRatio (gejDouble (gejOfReg r)) =
    if r.inf then (jacobianInf, 1)
    else (doubleFormula (coord r.x) (coord r.y) (coord r.z), rawP (2 * coord r.y)) := by
  cases h : r.inf with
  | true =>
    rw [gejOfReg_of_inf h]
    exact congrArg (jacobianInf, ·) feToRaw_one
  | false => exact rawWithRatio_gejDouble_finite h

/-- The sum of a finite register content and a second point, from the integers of `add_tail`'s arguments. -/
theorem rawWithRatio_addOrDouble {r : JReg} (hinf : r.inf = false) {u1 u2 s1 s2 zf : Fe} {u1' u2' s1' s2' zf' : Int}
    (hu1 : (u1.val : ZMod Config.p) = u1') (hu2 : (u2.val : ZMod Config.p) = u2')
    (hs1 : (s1.val : ZMod Config.p) = s1') (hs2 : (s2.val : ZMod Config.p) = s2')
    (hzf : (zf.val : ZMod Config.p) = zf') :
    rawWithRatio (addOrDouble (gejOfReg r) u1 u2 s1 s2 zf) =
      sumFormula (coord r.x) (coord r.y) (coord r.z) u1' u2' s1' s2' zf' := by
  have hh : fiszero (fsub u2 u1) = true ↔ (u2' - u1') % Config.p = 0 := by
    rw [fiszero_iff, ← Fe.cast_eq_zero, fsub_cast, hu1, hu2, emod_p_eq_zero_iff, Int.cast_sub]
  have hi : fiszero (fsub s2 s1) = true ↔ (s2' - s1') % Config.p = 0 := by
    rw [fiszero_iff, ← Fe.cast_eq_zero, fsub_cast, hs1, hs2, emod_p_eq_zero_iff, Int.cast_sub]
  simp only [addOrDouble, addTail, sumFormula, hh, hi]
  split
  · split
    · exact rawWithRatio_gejDouble_finite hinf
    · rfl
  · rw [gejOfReg_of_finite hinf, Option.getD_some]
    refine congrArg₂ Prod.mk (gejToReg_finite ?_ ?_ ?_) (feToRaw_of_cast ?_) <;>
      · push_cast [fmul_cast, fsqr_cast, fsub_cast, fmulint_cast, coord_cast, hu1, hu2, hs1, hs2, hzf]
        ring

theorem rawWithRatio_gejAdd (a b : JReg) : rawWithRatio (gejAdd (gejOfReg a) (gejOfReg b)) =
    if a.inf then (canonicalJ b, 0)
    else if b.inf then (canonicalJ a, 1)
    else sumFormula (coord a.x) (coord a.y) (coord a.z) (coord a.x * coord b.z ^ 2) (coord b.x * coord a.z ^ 2)
      (coord a.y * coord b.z ^ 3) (coord b.y * coord a.z ^ 3) (coord b.z) := by
  cases ha : a.inf with
  | true =>
    rw [gejAdd, if_pos ((gejOfReg_inf a).trans ha)]
    exact congrArg (·, 0) (gejToReg_gejOfReg b)
  | false =>
  cases hb : b.inf with
  | true =>
    simp only [gejAdd, gejOfReg_inf, ha, hb, Bool.false_eq_true, if_false, if_true]
    exact congrArg₂ Prod.mk (gejToReg_gejOfReg a) feToRaw_one
  | false =>
    rw [gejAdd_finite ((gejOfReg_inf a).trans ha) ((gejOfReg_inf b).trans hb)]
    refine rawWithRatio_addOrDouble ha ?_ ?_ ?_ ?_ ?_ <;>
      · push_cast [gejOfReg_of_finite ha, gejOfReg_of_finite hb, fmul_cast, fsqr_cast, coord_cast]
        ring

theorem gejToReg_gejAddGe (a : JReg) (b : AReg) : gejToReg (gejAddGe (gejOfReg a) (geOfReg b)) =
    if a.inf then (if b.inf then jacobianInf else jacobianRaw (coord b.x) (coord b.y) 1)
    else if b.inf then canonicalJ a
    else (sumFormula (coord a.x) (coord a.y) (coord a.z) (coord a.x) (coord b.x * coord a.z ^ 2)
      (coord a.y) (coord b.y * coord a.z ^ 3) 1).1 := by
  cases ha : a.inf with
  | true =>
    rw [gejAddGe, if_pos ((gejOfReg_inf a).trans ha)]
    exact gejToReg_gejOfGe b
  | false =>
  cases hb : b.inf with
  | true =>
    simp only [gejAddGe, gejOfReg_inf, geOfReg_inf, ha, hb, Bool.false_eq_true, if_false, if_true]
    exact gejToReg_gejOfReg a
  | false =>
    rw [gejAddGe_finite ((gejOfReg_inf a).trans ha) ((geOfReg_inf b).trans hb)]
    refine congrArg Prod.fst (rawWithRatio_addOrDouble ha ?_ ?_ ?_ ?_ ?_) <;>
      · push_cast [gejOfReg_of_finite ha, geOfReg_of_finite hb, fmul_cast, fsqr_cast, coord_cast, feOfNat_one_cast]
        ring

theorem gejToReg_gejAddZinv (a : JReg) (b : AReg) {zi : Fe} {k : Int} (hk : (zi.val : ZMod Config.p) = k) :
    gejToReg (gejAddZinv (gejOfReg a) (geOfReg b) zi) =
      if b.inf then canonicalJ a
      else if a.inf then jacobianRaw (coord b.x * k ^ 2) (coord b.y * k ^ 3) 1
      else (sumFormula (coord a.x) (coord a.y) (coord a.z) (coord a.x) (coord b.x * (coord a.z * k) ^ 2)
        (coord a.y) (coord b.y * (coord a.z * k) ^ 3) 1).1 := by
  cases hb : b.inf with
  | true =>
    rw [gejAddZinv, if_pos ((geOfReg_inf b).trans hb)]
    exact gejToReg_gejOfReg a
  | false =>
  cases ha : a.inf with
  | true =>
    simp only [gejAddZinv, gejOfReg_inf, geOfReg_inf, ha, hb, Bool.false_eq_true, if_false, if_true]
    refine gejToReg_finite ?_ ?_ ?_ <;>
      · push_cast [geOfReg_of_finite hb, fmul_cast, fsqr_cast, coord_cast, feOfNat_one_cast, hk]
        ring
  | false =>
    rw [gejAddZinv_finite ((gejOfReg_inf a).trans ha) ((geOfReg_inf b).trans hb)]
    refine congrArg Prod.fst (rawWithRatio_addOrDouble ha ?_ ?_ ?_ ?_ ?_) <;>
      · push_cast [gejOfReg_of_finite ha, geOfReg_of_finite hb, fmul_cast, fsqr_cast, coord_cast, feOfNat_one_cast, hk]
        ring

/-! ### The unified addition, as register contents (41_group_add.md R200) -/

theorem gejAddGeCt_of_inf {a : Gej} {b : Ge} (h : a.inf = true) : gejAddGeCt a b = ⟨b.x, b.y, feOfNat 1, false⟩ := by
  simp [gejAddGeCt, unifiedInfinityFlag, h]

/-- The end of the unified addition, from the integers of its arguments. -/
theorem gejToReg_unifiedResult {z t r d nn : Fe} {z' t' r' d' nn' : Int} (hz : (z.val : ZMod Config.p) = z')
    (ht : (t.val : ZMod Config.p) = t') (hr : (r.val : ZMod Config.p) = r') (hd : (d.val : ZMod Config.p) = d')
    (hnn : (nn.val : ZMod Config.p) = nn') :
    gejToReg (unifiedResult z t r d nn) =
      let q := d' ^ 2 * t'
      let xh := r' ^ 2 - q
      let yh := r' * (q - 2 * xh) - nn'
      if 2 * z' * d' % Config.p = 0 then jacobianInf else jacobianRaw (4 * xh) (4 * yh) (2 * z' * d') := by
  have hz3 : fiszero (fmulint 2 (fmul z d)) = true ↔ 2 * z' * d' % Config.p = 0 := by
    rw [fiszero_iff, ← Fe.cast_eq_zero, emod_p_eq_zero_iff, fmulint_cast, fmul_cast, hz, hd]
    push_cast
    rw [mul_assoc]
  simp only [unifiedResult, hz3]
  split
  · rfl
  · refine gejToReg_finite ?_ ?_ ?_ <;>
      · push_cast [fmul_cast, fsqr_cast, fsub_cast, fmulint_cast, hz, ht, hr, hd, hnn]
        ring

theorem degenerateFlag_cast {m rr : Fe} {m' r' : Int} (hm : (m.val : ZMod Config.p) = m')
    (hr : (rr.val : ZMod Config.p) = r') : degenerateFlag m rr = true ↔ m' % Config.p = 0 ∧ r' % Config.p = 0 := by
  rw [degenerateFlag, Bool.and_eq_true, fiszero_iff, fiszero_iff, ← Fe.cast_eq_zero, ← Fe.cast_eq_zero, hm, hr,
    emod_p_eq_zero_iff, emod_p_eq_zero_iff]

theorem gejToReg_gejAddGeCt (a : JReg) {b : AReg} (hb : b.inf = false) :
    gejToReg (gejAddGeCt (gejOfReg a) (geOfReg b)) =
      if a.inf then jacobianRaw (coord b.x) (coord b.y) 1
      else unifiedFormula (coord a.x) (coord a.y) (coord a.z) (coord b.x) (coord b.y) := by
  rw [geOfReg_of_finite hb]
  cases ha : a.inf with
  | true =>
    rw [gejAddGeCt_of_inf ((gejOfReg_inf a).trans ha)]
    exact gejToReg_finite (coord_cast _).symm (coord_cast _).symm (by rw [feOfNat_one_cast, Int.cast_one])
  | false =>
    rw [gejAddGeCt_finite ((gejOfReg_inf a).trans ha), gejOfReg_of_finite ha]
    extract_lets u2 t m rr
    have hu2 : (u2.val : ZMod Config.p) = (coord b.x * coord a.z ^ 2 : Int) := by
      push_cast [u2, fmul_cast, fsqr_cast, coord_cast]
      ring
    have ht : (t.val : ZMod Config.p) = (coord a.x + coord b.x * coord a.z ^ 2 : Int) := by
      rw [fadd_cast, hu2, Int.cast_add, coord_cast]
    have hm : (m.val : ZMod Config.p) = (coord a.y + coord b.y * coord a.z ^ 3 : Int) := by
      push_cast [m, fadd_cast, fmul_cast, fsqr_cast, coord_cast]
      ring
    have hrr : (rr.val : ZMod Config.p) = ((coord a.x + coord b.x * coord a.z ^ 2) ^ 2 -
        coord a.x * (coord b.x * coord a.z ^ 2) : Int) := by
      rw [fsub_cast, fsqr_cast, fmul_cast, ht, hu2]
      push_cast [coord_cast]
      rfl
    simp only [degenerateFlag_cast hm hrr, unifiedFormula]
    by_cases hdeg : (coord a.y + coord b.y * coord a.z ^ 3) % Config.p = 0 ∧
        ((coord a.x + coord b.x * coord a.z ^ 2) ^ 2 - coord a.x * (coord b.x * coord a.z ^ 2)) % Config.p = 0
    · simp only [if_pos hdeg]
      refine gejToReg_unifiedResult (coord_cast _).symm ht ?_ ?_ ?_
      · push_cast [fmulint_cast, coord_cast]
        rfl
      · push_cast [fsub_cast, hu2, coord_cast]
        rfl
      · rw [feOfNat_cast, Nat.cast_zero, Int.cast_zero]
    · simp only [if_neg hdeg]
      refine gejToReg_unifiedResult (coord_cast _).symm ht hrr hm ?_
      rw [fsqr_cast, fsqr_cast, hm, Int.cast_pow, ← pow_mul]

/-! ### The commands -/

theorem completes_writeWithRatio {i : Instr} {s : State} {tr : Trace} {rd : JSel} {rc : FSel} {r : Gej × Fe}
    {v : JReg × U256} (h : exec i s = finish i s tr (.ok (writeWithRatio s rd rc r))) (hv : rawWithRatio r = v) :
    Completes i s ((s.putJ rd v.1).putF rc v.2) :=
  completes_of_ok h (hv ▸ rfl) rfl rfl

/-- Settles O36: the command writes the content of `gej_double` and of its ratio. -/
theorem doubling : Obligations.Doubling := by
  unfold Obligations.Doubling
  intro s rd ra rc a
  have hcompletes := completes_writeWithRatio (i := .gejDblVar rd ra rc) rfl (rawWithRatio_gejDouble s.jReg[ra])
  refine ⟨hasWord_of_wordR rfl rfl rfl, ?_⟩
  split at hcompletes
  · rwa [if_pos ‹_›]
  · rwa [if_neg ‹_›]

/-- Settles O37: the command writes the content of `gej_add` and of its ratio. -/
theorem generalAddition : Obligations.GeneralAddition := by
  unfold Obligations.GeneralAddition
  exact fun s rd ra rb rc => ⟨hasWord_of_wordR rfl rfl rfl, completes_writeWithRatio rfl (rawWithRatio_gejAdd _ _)⟩

/-- Settles O38: the command writes the content of `gej_add_ge`. -/
theorem mixedAddition : Obligations.MixedAddition := by
  unfold Obligations.MixedAddition
  exact fun s rd ra rb => ⟨hasWord_of_wordR rfl rfl rfl, completes_writeJ rfl (gejToReg_gejAddGe _ _)⟩

/-- Settles O39: the command writes the content of `gej_add_zinv` at the operand value of `F[rc]`. -/
theorem mixedAdditionByGivenInverse : Obligations.MixedAdditionByGivenInverse := by
  unfold Obligations.MixedAdditionByGivenInverse
  exact fun s rd ra rb rc => ⟨hasWord_of_wordR rfl rfl rfl,
    completes_writeJ rfl (gejToReg_gejAddZinv _ _ (fVal_cast s rc).symm)⟩

theorem exec_gejAddGe (rd ra : JSel) (rb : ASel) (s : State) :
    exec (.gejAddGe rd ra rb) s = finish (.gejAddGe rd ra rb) s Trace.none
      (if (s.readA rb).inf then .error .infinity
      else .ok (s.writeJ rd (gejAddGeCt (s.readJ ra) (s.readA rb)))) := rfl

theorem exec_gejAddGe_finite (rd ra : JSel) {rb : ASel} {s : State} (h : (s.readA rb).inf = false) :
    exec (.gejAddGe rd ra rb) s = finish (.gejAddGe rd ra rb) s Trace.none
      (.ok (s.writeJ rd (gejAddGeCt (s.readJ ra) (s.readA rb)))) := by
  rw [exec_gejAddGe, if_neg (by simp [h])]

/-- Settles O40: the identity test comes first, the value written is the content of `gej_add_ge_ct`, and the trace is
the same from every state. -/
theorem unifiedAddition : Obligations.UnifiedAddition := by
  unfold Obligations.UnifiedAddition
  intro s rd ra rb
  refine ⟨hasWord_of_wordR rfl rfl rfl, constantTime_of_finish rfl fun s => ⟨_, exec_gejAddGe rd ra rb s⟩,
    fun hinf => ?_, fun hinf => ?_⟩
  · have hexec := exec_gejAddGe rd ra rb s
    rw [if_pos ((readA_inf s rb).trans hinf)] at hexec
    exact raisesFault_of_error hexec
  · exact completes_writeJ (exec_gejAddGe_finite rd ra ((readA_inf s rb).trans hinf)) (gejToReg_gejAddGeCt _ hinf)

end Sys2Proof.Machine
end

section
/-! PROOFS. The ratios and the group law of the doubling and the four additions (41_group_add.md R191 to R195, R201). -/

namespace Sys2Proof.Machine

/-! ### The ratio takes `z` to `z` (41_group_add.md R190, R191, R192) -/

theorem gejDouble_inf (a : Gej) : (gejDouble a).1.inf = a.inf := by
  cases h : a.inf <;> simp [gejDouble, h, JINF]

theorem gejDouble_z {a : Gej} (h : a.inf = false) : (gejDouble a).1.z = fmul a.z (gejDouble a).2 := by
  simp only [gejDouble, h, Bool.false_eq_true, if_false]
  refine Fe.ext_cast ?_
  simp only [fmulint_cast, fmul_cast]
  ring

theorem addTail_z {a : Gej} {u1 u2 s1 s2 zf : Fe} {r : Gej × Fe} (h : addTail a u1 u2 s1 s2 zf = some r)
    (hr : r.1.inf = false) : r.1.z = fmul a.z r.2 := by
  simp only [addTail] at h
  split at h
  · split at h
    · cases h
    · cases h
      cases hr
  · cases h
    rfl

theorem addOrDouble_z {a : Gej} {u1 u2 s1 s2 zf : Fe} (ha : a.inf = false)
    (hr : (addOrDouble a u1 u2 s1 s2 zf).1.inf = false) :
    (addOrDouble a u1 u2 s1 s2 zf).1.z = fmul a.z (addOrDouble a u1 u2 s1 s2 zf).2 := by
  unfold addOrDouble at hr ⊢
  cases h : addTail a u1 u2 s1 s2 zf with
  | none => exact gejDouble_z ha
  | some r => exact addTail_z h (by simpa [h] using hr)

theorem gejAdd_z {a b : Gej} (ha : a.inf = false) (hr : (gejAdd a b).1.inf = false) :
    (gejAdd a b).1.z = fmul a.z (gejAdd a b).2 := by
  cases hb : b.inf with
  | true =>
    simp only [gejAdd, ha, hb, Bool.false_eq_true, if_false, if_true]
    exact Fe.ext_cast (by rw [fmul_cast, feOfNat_one_cast, mul_one])
  | false =>
    rw [gejAdd_finite ha hb] at hr ⊢
    exact addOrDouble_z ha hr

/-! ### What the two commands with a ratio leave -/

theorem exec_gejDblVar (rd ra : JSel) (rc : FSel) (s : State) :
    exec (.gejDblVar rd ra rc) s = finish (.gejDblVar rd ra rc) s Trace.none
      (.ok (writeWithRatio s rd rc (gejDouble (s.readJ ra)))) := rfl

theorem exec_gejAddVar (rd ra rb : JSel) (rc : FSel) (s : State) :
    exec (.gejAddVar rd ra rb rc) s = finish (.gejAddVar rd ra rb rc) s Trace.none
      (.ok (writeWithRatio s rd rc (gejAdd (s.readJ ra) (s.readJ rb)))) := rfl

@[simp] theorem writeWithRatio_jReg (s : State) (rd : JSel) (rc : FSel) (r : Gej × Fe) :
    (writeWithRatio s rd rc r).jReg = s.jReg.set rd (gejToReg r.1) := rfl

@[simp] theorem readF_writeWithRatio (s : State) (rd : JSel) (rc : FSel) (r : Gej × Fe) :
    (writeWithRatio s rd rc r).readF rc = r.2 := State.readF_writeF ..

theorem State.readF_recordLeak (s : State) (i : Instr) (f : Option Fault) (tr : Trace) (k : FSel) :
    (s.recordLeak i f tr).readF k = s.readF k := by
  rw [State.readF, State.recordLeak_fRaw, State.readF]

/-- A command that ends with `writeWithRatio` leaves the value's content and the ratio. -/
theorem written_of_writeWithRatio {i : Instr} {s t : State} {tr : Trace} {rd : JSel} {rc : FSel} {r : Gej × Fe}
    (h : finish i s tr (.ok (writeWithRatio s rd rc r)) = .next t) : t.jReg[rd] = gejToReg r.1 ∧ t.readF rc = r.2 := by
  rw [finish_ok, Host.Outcome.next.injEq] at h
  subst h
  exact ⟨by simp, by rw [State.readF_recordLeak, readF_writeWithRatio]⟩

theorem gejToReg_inf (a : Gej) : (gejToReg a).inf = a.inf := by
  cases h : a.inf <;> simp [gejToReg, h]

theorem gejToReg_z {a : Gej} (h : a.inf = false) : (gejToReg a).z = feToRaw a.z := by
  simp [gejToReg, h]

/-- A value's ratio, in the registers the value and the ratio are written to. -/
theorem z_eq_of_ratio {s t : State} {rd ra : JSel} {rc : FSel} {r : Gej × Fe}
    (hj : t.jReg[rd] = gejToReg r.1) (hf : t.readF rc = r.2) (ha : s.jReg[ra].inf = false) (hinf : r.1.inf = false)
    (hz : r.1.z = fmul (s.readJ ra).z r.2) : t.jReg[rd].z = rawP (coord s.jReg[ra].z * t.fVal rc) := by
  rw [hj, gejToReg_z hinf, hz]
  refine feToRaw_of_cast ?_
  rw [fmul_cast, State.readJ, gejOfReg_of_finite ha, Int.cast_mul, coord_cast, fVal_cast, hf]

theorem readJ_inf (s : State) (i : JSel) : (s.readJ i).inf = s.jReg[i].inf := gejOfReg_inf _

/-- Settles O41: `gej_double` and `gej_add` give a `z` that is the first operand's times their ratio. -/
theorem ratioTakesZToZ : Obligations.RatioTakesZToZ := by
  unfold Obligations.RatioTakesZToZ
  refine ⟨fun s t rd ra rc h ha => ?_, fun s t rd ra rb rc h ha hr => ?_⟩
  · obtain ⟨hj, hf⟩ := written_of_writeWithRatio h
    have hfinite := (readJ_inf s ra).trans ha
    have hinf := (gejDouble_inf _).trans hfinite
    exact ⟨by rw [hj, gejToReg_inf, hinf], z_eq_of_ratio hj hf ha hinf (gejDouble_z hfinite)⟩
  · obtain ⟨hj, hf⟩ := written_of_writeWithRatio h
    rw [hj, gejToReg_inf] at hr
    exact z_eq_of_ratio hj hf ha hr (gejAdd_z ((readJ_inf s ra).trans ha) hr)

/-! ### A value and itself, a value and its negative (41_group_add.md R201) -/

theorem fiszero_fsub_self (a : Fe) : fiszero (fsub a a) = true := by
  rw [fiszero_iff, ← Fe.cast_eq_zero, fsub_cast, sub_self]

/-- A finite value added to itself redirects to doubling. -/
theorem gejAdd_self {a : Gej} (h : a.inf = false) : gejAdd a a = gejDouble a := by
  rw [gejAdd_finite h h, addOrDouble, addTail, if_pos (fiszero_fsub_self _), if_pos (fiszero_fsub_self _)]
  rfl

/-- A finite value and its negative have the same `u` and different `s`. -/
theorem gejAdd_gejNeg {a : Gej} (h : a.inf = false) (hy : a.y.val ≠ 0) (hz : a.z.val ≠ 0) :
    gejAdd a (gejNeg a) = (JINF, feOfNat 0) := by
  have : Fact (Nat.Prime Config.p) := ⟨p_prime⟩
  have hneg : gejNeg a = ⟨a.x, fneg a.y, a.z, false⟩ := if_neg (by simp [h])
  rw [hneg, gejAdd_finite h rfl, addOrDouble, addTail, if_pos (fiszero_fsub_self _), if_neg]
  · rfl
  · have hi : ((fsub (fmul (fmul (fneg a.y) (fsqr a.z)) a.z) (fmul (fmul a.y (fsqr a.z)) a.z)).val : ZMod Config.p) =
        -(2 * a.y.val * (a.z.val : ZMod Config.p) ^ 3) := by
      simp only [fsub_cast, fmul_cast, fsqr_cast, fneg_cast]
      ring
    rw [fiszero_iff, ← Fe.cast_eq_zero, hi, neg_eq_zero]
    rw [Ne, ← Fe.cast_eq_zero] at hy hz
    exact mul_ne_zero (mul_ne_zero two_ne_zero_mod_p hy) (pow_ne_zero _ hz)

/-- `GEJ_NEG` into another register keeps its operand. -/
theorem gejNeg_readJ {s t : State} {rn ra : JSel} (hne : rn ≠ ra) (h : exec (.gejNeg rn ra) s = .next t) :
    t.readJ ra = s.readJ ra ∧ t.readJ rn = if (gejNeg (s.readJ ra)).inf then JINF else gejNeg (s.readJ ra) := by
  have hexec : exec (.gejNeg rn ra) s = .next ((s.writeJ rn (gejNeg (s.readJ ra))).recordLeak _ none Trace.none) := rfl
  rw [hexec, Host.Outcome.next.injEq] at h
  subst h
  rw [State.readJ_recordLeak, State.readJ_recordLeak]
  exact ⟨State.readJ_writeJ_ne _ _ _ _ hne, State.readJ_writeJ ..⟩

/-- Settles O42: `gej_add` of a value and itself is `gej_double`, and of a value and its negative is `JINF` with
ratio 0. -/
theorem addingItselfAndItsNegative : Obligations.AddingItselfAndItsNegative := by
  unfold Obligations.AddingItselfAndItsNegative
  refine ⟨fun s t rd ra rc ha h => ?_, fun s t u rd ra rn rc ha hy hz hne ht hu => ?_⟩
  · rw [exec_gejAddVar, gejAdd_self ((readJ_inf s ra).trans ha), finish_ok, Host.Outcome.next.injEq] at h
    refine ⟨_, exec_gejDblVar rd ra rc s, ?_⟩
    rw [← h, State.arch_recordLeak]
    exact (State.arch_recordLeak ..).symm
  · obtain ⟨hra, hrn⟩ := gejNeg_readJ hne ht
    have hfinite := (readJ_inf s ra).trans ha
    rw [coord_eq, Ne, Nat.cast_eq_zero] at hy hz
    have hsum : gejAdd (t.readJ ra) (t.readJ rn) = (JINF, feOfNat 0) := by
      have hneg : (gejNeg (s.readJ ra)).inf = false := by simp [gejNeg, hfinite]
      rw [hra, hrn, hneg, if_neg Bool.false_ne_true]
      rw [State.readJ, gejOfReg_of_finite ha]
      exact gejAdd_gejNeg rfl hy hz
    rw [exec_gejAddVar, hsum] at hu
    obtain ⟨hj, hf⟩ := written_of_writeWithRatio hu
    exact ⟨hj, by rw [fVal_eq, hf]; rfl⟩

/-! ### The group law (41_group_add.md R191 to R195) -/

/-- A value reads back as one that stands for the same point. -/
theorem Gej.StandsFor.readBack {a : Gej} {P : Point} (h : a.StandsFor P) : (gejOfReg (gejToReg a)).StandsFor P := by
  rw [gejOfReg_gejToReg]
  split
  · rw [(Gej.standsFor_zero ‹_›).1 h]
    exact jinf_standsFor
  · exact h

theorem Ge.StandsFor.eq_zero {b : Ge} {Q : Point} (h : b.StandsFor Q) (hinf : b.inf = true) : Q = 0 := by
  rcases h with ⟨-, rfl⟩ | ⟨hf, -⟩
  · rfl
  · simp [hinf] at hf

/-- A command that ends with a value written to `J[rd]` leaves a representative of the value's point there. -/
theorem readJ_standsFor_of_ok {i : Instr} {s u : State} {tr : Trace} {rd : JSel} {v : Gej} {P : Point}
    (h : exec i s = finish i s tr (.ok u)) (hu : u.jReg[rd] = gejToReg v) (hv : v.StandsFor P) :
    ∃ t, exec i s = .next t ∧ (t.readJ rd).StandsFor P := by
  refine ⟨_, h.trans (finish_ok ..), ?_⟩
  rw [State.readJ_recordLeak, State.readJ, hu]
  exact hv.readBack

section
variable [Fact (Nat.Prime Config.p)]

/-- The sum of a finite value and a finite affine point, which is brought to the value's `z`. -/
theorem addOrDouble_affine_standsFor {a : Gej} {u2 s2 : Fe} {P : Point} {x₂ y₂ : ZMod Config.p} (ha : a.StandsFor P)
    (hinf : a.inf = false) (h₂ : curve.Nonsingular x₂ y₂) (hu2 : (u2.val : ZMod Config.p) = x₂ * a.z.val ^ 2)
    (hs2 : (s2.val : ZMod Config.p) = y₂ * a.z.val ^ 3) :
    (addOrDouble a a.x u2 a.y s2 (feOfNat 1)).1.StandsFor (P + .some x₂ y₂ h₂) := by
  have hdouble := gejDouble_standsFor ha
  obtain ⟨hz, x₁, y₁, h₁, rfl, hx₁, hy₁⟩ := ha.exists_some hinf
  have hw : (a.z.val : ZMod Config.p) = a.z.val * (feOfNat 1).val := by rw [feOfNat_one_cast, mul_one]
  rw [addOrDouble]
  rcases addTail_standsFor a h₁ h₂ hw hz hx₁.symm hu2 hy₁.symm hs2 with ⟨hnone, rfl, rfl⟩ | ⟨r, hsome, hr⟩
  · rwa [hnone]
  · rwa [hsome]

theorem gejAddGe_standsFor {a : Gej} {b : Ge} {P Q : Point} (ha : a.StandsFor P) (hb : b.StandsFor Q) :
    (gejAddGe a b).StandsFor (P + Q) := by
  cases hainf : a.inf with
  | true =>
    rw [(Gej.standsFor_zero hainf).1 ha, zero_add, gejAddGe, if_pos hainf]
    exact gejOfGe_standsFor hb
  | false =>
  cases hbinf : b.inf with
  | true =>
    rw [hb.eq_zero hbinf, add_zero, gejAddGe, if_neg (by simp [hainf]), if_pos hbinf]
    exact ha
  | false =>
    obtain ⟨h₂, rfl⟩ := hb.exists_some hbinf
    rw [gejAddGe_finite hainf hbinf]
    refine addOrDouble_affine_standsFor ha hainf h₂ ?_ ?_ <;> simp only [fmul_cast, fsqr_cast]
    ring

/-- The addition by a given inverse adds the affine point whose coordinates it scales. -/
theorem gejAddZinv_standsFor {a : Gej} {b : Ge} {zi : Fe} {P Q : Point} (ha : a.StandsFor P) (hbinf : b.inf = false)
    (hb : Ge.StandsFor ⟨feOfNat (b.x.val * zi.val ^ 2), feOfNat (b.y.val * zi.val ^ 3), false⟩ Q) :
    (gejAddZinv a b zi).StandsFor (P + Q) := by
  obtain ⟨h₂, rfl⟩ := hb.exists_some rfl
  cases hainf : a.inf with
  | true =>
    rw [(Gej.standsFor_zero hainf).1 ha, zero_add, gejAddZinv, if_neg (by simp [hbinf]), if_pos hainf]
    refine standsFor_some rfl ?_ ?_ ?_ <;> push_cast [feOfNat_cast, fmul_cast, fsqr_cast]
    · exact one_ne_zero
    · ring
    · ring
  | false =>
    rw [gejAddZinv_finite hainf hbinf]
    refine addOrDouble_affine_standsFor ha hainf h₂ ?_ ?_ <;>
      · push_cast [feOfNat_cast, fmul_cast, fsqr_cast]
        ring

end

/-- Settles O43: the values written are those of `gej_double` and `gej_add`. -/
theorem jacobianGroupLaw : Obligations.JacobianGroupLaw := by
  unfold Obligations.JacobianGroupLaw
  intro _ s rd ra rb rc P Q ha hb
  exact ⟨readJ_standsFor_of_ok (exec_gejDblVar rd ra rc s) (by simp) (gejDouble_standsFor ha),
    readJ_standsFor_of_ok (exec_gejAddVar rd ra rb rc s) (by simp) (gejAdd_standsFor ha hb)⟩

theorem exec_gejAddGeVar (rd ra : JSel) (rb : ASel) (s : State) :
    exec (.gejAddGeVar rd ra rb) s = finish (.gejAddGeVar rd ra rb) s Trace.none
      (.ok (s.writeJ rd (gejAddGe (s.readJ ra) (s.readA rb)))) := rfl

theorem exec_gejAddZinvVar (rd ra : JSel) (rb : ASel) (rc : FSel) (s : State) :
    exec (.gejAddZinvVar rd ra rb rc) s = finish (.gejAddZinvVar rd ra rb rc) s Trace.none
      (.ok (s.writeJ rd (gejAddZinv (s.readJ ra) (s.readA rb) (s.readF rc)))) := rfl

/-- Settles O44: the values written are those of `gej_add_ge`, `gej_add_ge_ct` and `gej_add_zinv`. -/
theorem mixedGroupLaw : Obligations.MixedGroupLaw := by
  unfold Obligations.MixedGroupLaw
  intro _ s rd ra rb rc P Q ha
  refine ⟨fun hb => ⟨?_, fun hinf => ?_⟩, fun _ hinf hb => ?_⟩
  · exact readJ_standsFor_of_ok (exec_gejAddGeVar rd ra rb s) (by simp) (gejAddGe_standsFor ha hb)
  · exact readJ_standsFor_of_ok (exec_gejAddGe_finite rd ra hinf) (by simp) (gejAddGeCt_standsFor ha hb hinf)
  · exact readJ_standsFor_of_ok (exec_gejAddZinvVar rd ra rb rc s) (by simp) (gejAddZinv_standsFor ha hinf hb)

end Sys2Proof.Machine
end

section
/-! PROOFS. The scalar commands (42_scalar.md): register contents as integers mod `n` (10_state.md R33, R39), and
the sum, product, negative, inverse and parity the commands give. -/

namespace Sys2Proof.Machine

/-! ### Register contents as integers mod `n` (10_state.md R33, R39) -/

theorem emod_n_eq_zero_iff (v : Int) : v % Config.n = 0 ↔ (v : ZMod Config.n) = 0 := by
  rw [ZMod.intCast_zmod_eq_zero_iff_dvd, Int.dvd_iff_emod_eq_zero]

/-- The content of a scalar result is that of any integer with its cast. -/
theorem scToRaw_of_cast {a : Sc} {v : Int} (h : (a.val : ZMod Config.n) = v) : scToRaw a = rawN v :=
  scToRaw_eq_rawN a v ((emod_n_eq_zero_iff _).2 (by simp [h]))

@[simp] theorem sVal_cast (s : State) (i : SSel) : (s.sVal i : ZMod Config.n) = (s.readS i).val := by
  rw [sVal_eq, Int.cast_natCast]

/-- A meaning that ends in a scalar result writes the content of any integer with its cast. -/
theorem completes_writeS {i : Instr} {s : State} {tr : Trace} {rd : SSel} {v : Sc} {k : Int}
    (h : exec i s = finish i s tr (.ok (s.writeS rd v))) (hv : (v.val : ZMod Config.n) = k) :
    Completes i s (s.putS rd (rawN k)) :=
  completes_of_ok h (scToRaw_of_cast hv ▸ rfl) rfl rfl

/-! ### Sum, product and negative (42_scalar.md R221 to R223) -/

/-- Settles O24: each command writes one scalar, whose cast mod `n` is that of the stated integer. -/
theorem scalarRingCommands : Obligations.ScalarRingCommands := by
  unfold Obligations.ScalarRingCommands
  intro s rd ra rb
  refine ⟨⟨hasWord_of_wordR rfl rfl rfl, completes_writeS rfl ?_⟩, ⟨hasWord_of_wordR rfl rfl rfl,
    completes_writeS rfl ?_⟩, ⟨hasWord_of_wordR rfl rfl rfl, completes_writeS rfl ?_⟩⟩
  · rw [sadd_cast, Int.cast_add, sVal_cast, sVal_cast]
  · rw [smul_cast, Int.cast_mul, sVal_cast, sVal_cast]
  · rw [sneg_cast, Int.cast_neg, sVal_cast]

/-! ### The two inverses (42_scalar.md R224, R225) -/

theorem readS_val_eq_zero (s : State) (i : SSel) : (s.readS i).val = 0 ↔ s.sVal i = 0 := by
  rw [sVal_eq, Nat.cast_eq_zero]

theorem invertTo_of_zero {s : State} {ra : SSel} (h : s.sVal ra = 0) (rd : SSel) :
    invertTo s rd ra = .error .zero := by
  rw [invertTo_eq, if_pos ((readS_val_eq_zero s ra).2 h)]

theorem invertTo_of_ne_zero {s : State} {ra : SSel} (h : s.sVal ra ≠ 0) (rd : SSel) :
    invertTo s rd ra = .ok (s.writeS rd (sinv (s.readS ra))) := by
  rw [invertTo_eq, if_neg (mt (readS_val_eq_zero s ra).1 h)]

/-- `sinv` of an operand as a power of its integer. -/
theorem sinv_readS_val (s : State) (i : SSel) :
    ((sinv (s.readS i)).val : Int) = s.sVal i ^ (Config.n - 2) % Config.n := by
  rw [sinv_val, sVal_eq, Int.natCast_mod, Int.natCast_pow]

/-- A nonzero operand times its `sinv` is 1 mod `n`. -/
theorem sVal_mul_sinv_readS {s : State} {i : SSel} (h : s.sVal i ≠ 0) :
    s.sVal i * (sinv (s.readS i)).val % Config.n = 1 := by
  rw [sVal_eq]
  exact_mod_cast smul_sinv (s.readS i) (mt (readS_val_eq_zero s i).1 h)

theorem exec_scInv (rd ra : SSel) (s : State) :
    exec (.scInv rd ra) s = finish (.scInv rd ra) s Trace.none (invertTo s rd ra) := rfl

theorem exec_scInvVar (rd ra : SSel) (s : State) :
    exec (.scInvVar rd ra) s = finish (.scInvVar rd ra) s Trace.none (invertTo s rd ra) := rfl

/-- Settles O25: both commands end with `invertTo`, which raises F_ZERO or writes `sinv` of the operand. -/
theorem scalarInverses : Obligations.ScalarInverses := by
  unfold Obligations.ScalarInverses
  intro s rd ra
  have hct := exec_scInv rd ra s
  have hvt := exec_scInvVar rd ra s
  refine ⟨hasWord_of_wordR rfl rfl rfl, hasWord_of_wordR rfl rfl rfl,
    constantTime_of_finish rfl fun s => ⟨_, exec_scInv rd ra s⟩, fun hz => ?_, fun hz => ?_⟩
  · rw [invertTo_of_zero hz] at hct hvt
    exact ⟨raisesFault_of_error hct, raisesFault_of_error hvt⟩
  · rw [invertTo_of_ne_zero hz] at hct hvt
    exact ⟨_, sinv_readS_val s ra, sVal_mul_sinv_readS hz, completes_writeS hct (Int.cast_natCast _).symm,
      completes_writeS hvt (Int.cast_natCast _).symm⟩

/-! ### Parity (42_scalar.md R226) -/

theorem evenFlag_readS (s : State) (i : SSel) : evenFlag (s.readS i) = decide (s.sVal i % 2 = 0) := by
  rw [evenFlag, beq_eq_decide, sVal_eq, decide_eq_decide]
  omega

/-- Settles O26: the flag written is the parity of the operand's integer in `[0, n)`. -/
theorem scalarParity : Obligations.ScalarParity := by
  unfold Obligations.ScalarParity
  exact fun s ra => ⟨hasWord_of_wordR rfl rfl rfl,
    completes_of_ok (tr := Trace.none) rfl (congrArg (fun b => (s.writeT1 b).arch) (evenFlag_readS s ra)) rfl rfl⟩

end Sys2Proof.Machine
end

section
/-! PROOFS. The wNAF encoder (43_wnaf.md): the arithmetic of one window, the invariant its loop keeps, and from that
the digits, the completion and the fault of `WNAF`. -/

namespace Sys2Proof.Machine

/-! ### One window of the encoder (43_wnaf.md R240) -/

theorem mod_two_pow_add (s bit now : Nat) : s % 2 ^ (bit + now) = s % 2 ^ bit + 2 ^ bit * sbits s bit now := by
  rw [pow_add, Nat.mod_mul, sbits]

theorem sbits_mod_two {now : Nat} (s bit : Nat) (hnow : 0 < now) : sbits s bit now % 2 = sbits s bit 1 := by
  rw [sbits, sbits, pow_one, Nat.mod_mod_of_dvd _ (dvd_pow_self 2 hnow.ne')]

section
variable {s bit carry now : Nat} (hcarry : carry ≤ 1) (hbit : sbits s bit 1 ≠ carry) (hnow : 0 < now)
include hcarry hbit hnow

/-- A window the encoder opens is odd: its lowest bit differs from the carry. -/
theorem windowWord_odd : (sbits s bit now + carry) % 2 = 1 := by
  have hlow := sbits_mod_two s bit hnow
  omega

/-- The carry into an odd window does not overflow it. -/
theorem windowWord_lt : sbits s bit now + carry < 2 ^ now := by
  have hodd := windowWord_odd hcarry hbit hnow
  have heven : 2 ^ now % 2 = 0 := Nat.mod_eq_zero_of_dvd (dvd_pow_self 2 hnow.ne')
  have hlt : sbits s bit now < 2 ^ now := Nat.mod_lt _ (Nat.two_pow_pos now)
  omega

end

/-- Half of the full window, doubled. -/
theorem two_pow_half {w : Nat} (hw : 2 ≤ w) : 2 ^ w = 2 * 2 ^ (w - 1) := by
  rw [← pow_succ', Nat.sub_add_cancel (by omega)]

theorem even_half {w : Nat} (hw : 2 ≤ w) : 2 ^ (w - 1) % 2 = 0 :=
  Nat.mod_eq_zero_of_dvd (dvd_pow_self 2 (by omega))

/-- A window word carries out exactly where it reaches half of the full window, which a window cut short cannot. -/
theorem carryOut_cases {word w now : Nat} (hw : 2 ≤ w) (hnow : now ≤ w) (hword : word < 2 ^ now) :
    (word / 2 ^ (w - 1) % 2 = 0 ∧ word < 2 ^ (w - 1)) ∨
      (word / 2 ^ (w - 1) % 2 = 1 ∧ now = w ∧ 2 ^ (w - 1) ≤ word) := by
  by_cases hhalf : word < 2 ^ (w - 1)
  · exact .inl ⟨by rw [Nat.div_eq_of_lt hhalf], hhalf⟩
  · have hfull : now = w := by
      by_contra hne
      exact hhalf (hword.trans_le (Nat.pow_le_pow_right two_pos (by omega)))
    rw [hfull, two_pow_half hw] at hword
    have hone : word / 2 ^ (w - 1) = 1 := Nat.div_eq_of_lt_le (by omega) (by omega)
    exact .inr ⟨by rw [hone], hfull, by omega⟩

/-- An odd window word less its carry is an odd digit in the range of R242, with either sign. -/
theorem windowDigit_oddInRange {word w now : Nat} (hw : 2 ≤ w) (hnow : now ≤ w) (hword : word < 2 ^ now)
    (hodd : word % 2 = 1) {sign digit : Int} (hsign : sign = 1 ∨ sign = -1)
    (hdigit : digit = sign * (word - (word / 2 ^ (w - 1) % 2 : Nat) * 2 ^ w)) :
    digit % 2 = 1 ∧ -(2 ^ (w - 1) - 1) ≤ digit ∧ digit ≤ 2 ^ (w - 1) - 1 := by
  have hfull : word < 2 ^ w := hword.trans_le (Nat.pow_le_pow_right two_pos hnow)
  have heven := even_half hw
  have htwice : (2 : Int) ^ w = 2 * (2 ^ (w - 1) : Nat) := by exact_mod_cast two_pow_half hw
  have hhalf : (2 : Int) ^ (w - 1) = (2 ^ (w - 1) : Nat) := by norm_cast
  rw [two_pow_half hw] at hfull
  rw [htwice] at hdigit
  rw [hhalf]
  rcases carryOut_cases hw hnow hword with ⟨hcarry, hlt⟩ | ⟨hcarry, -, hge⟩
  · rw [hcarry] at hdigit
    rcases hsign with rfl | rfl <;> omega
  · rw [hcarry] at hdigit
    rcases hsign with rfl | rfl <;> omega

/-- A window that carries out ends in a set bit, since the carry into it alone does not reach half of it. -/
theorem topBit_of_carryOut {s bit carry w : Nat} (hw : 2 ≤ w) (hcarry : carry ≤ 1)
    (hodd : (sbits s bit w + carry) % 2 = 1) (hhalf : 2 ^ (w - 1) ≤ sbits s bit w + carry) :
    2 ^ (bit + w) ≤ 2 * (s % 2 ^ (bit + w)) := by
  have heven := even_half hw
  calc 2 ^ (bit + w) = 2 * (2 ^ bit * 2 ^ (w - 1)) := by rw [pow_add, two_pow_half hw]; ring
    _ ≤ 2 * (2 ^ bit * sbits s bit w) := by gcongr; omega
    _ ≤ 2 * (s % 2 ^ (bit + w)) := by rw [mod_two_pow_add]; omega

/-! ### Digit sequences with the guarantees of R241 -/

theorem wnafDigits_empty (w : Nat) : WnafDigits 0 w 0 DigitStream.empty.digit DigitStream.empty.count := by
  have hzero : ∀ i : Fin 256, DigitStream.empty.digit[i] = 0 := fun i => by simp [DigitStream.empty]
  exact ⟨by simp [hzero], fun i h => absurd (hzero i) h, fun i _ _ h => absurd (hzero i) h, .inl ⟨rfl, hzero⟩,
    fun i _ => hzero i⟩

theorem setIfInBounds_getElem (digit : Vector Int 256) (bit : Nat) (x : Int) (i : Fin 256) :
    (digit.setIfInBounds bit x)[i] = if i.val = bit then x else digit[i] := by
  simp [Vector.getElem_setIfInBounds, eq_comm]

/-- A digit written into a free position adds its value to the sum. -/
theorem sum_setIfInBounds {digit : Vector Int 256} {bit : Nat} (hbit : bit < 256)
    (hfree : digit[(⟨bit, hbit⟩ : Fin 256)] = 0) (x : Int) :
    ∑ i : Fin 256, (digit.setIfInBounds bit x)[i] * 2 ^ i.val = ∑ i : Fin 256, digit[i] * 2 ^ i.val + x * 2 ^ bit := by
  rw [← sub_eq_iff_eq_add', ← Finset.sum_sub_distrib, Finset.sum_eq_single (⟨bit, hbit⟩ : Fin 256)]
  · rw [setIfInBounds_getElem, if_pos rfl, hfree, zero_mul, sub_zero]
  · intro i _ hi
    rw [setIfInBounds_getElem, if_neg fun h => hi (Fin.ext h), sub_self]
  · exact fun h => absurd (Finset.mem_univ _) h

section
variable {a : Int} {w bit count : Nat} {digit : Vector Int 256} (h : WnafDigits a w bit digit count)
include h

/-- Digits below one position are digits below a later one. -/
theorem WnafDigits.mono {bit' : Nat} (hle : bit ≤ bit') : WnafDigits a w bit' digit count :=
  { h with inBuffer := fun i hi => h.inBuffer i (hle.trans hi) }

/-- The guarantees speak of the value mod `n` only. -/
theorem WnafDigits.of_emod {b : Int} (hb : (a - b) % Config.n = 0) : WnafDigits b w bit digit count := by
  refine { h with congruent := ?_ }
  have hsum := (Int.dvd_of_emod_eq_zero h.congruent).add (Int.dvd_of_emod_eq_zero hb)
  rw [sub_add_sub_cancel] at hsum
  exact Int.emod_eq_zero_of_dvd hsum

/-- A digit in range at least `w` above every nonzero one extends the sequence by its value. -/
theorem WnafDigits.push {x : Int} {now : Nat} (hbit : bit < 256) (hnow : 0 < now)
    (hroom : ∀ i : Fin 256, digit[i] ≠ 0 → i.val + w ≤ bit) (hodd : x % 2 = 1) (hlow : -(2 ^ (w - 1) - 1) ≤ x)
    (hhigh : x ≤ 2 ^ (w - 1) - 1) :
    WnafDigits (a + x * 2 ^ bit) w (bit + now) (digit.setIfInBounds bit x) (bit + 1) := by
  have habove (i : Fin 256) (hi : bit < i.val) : (digit.setIfInBounds bit x)[i] = 0 := by
    rw [setIfInBounds_getElem, if_neg hi.ne', h.inBuffer i hi.le]
  refine ⟨?congruent, fun i hi => ?oddInRange, fun i j hij hi hj => ?separated,
    .inr ⟨⟨bit, hbit⟩, ?top, rfl, habove⟩, fun i hi => habove i (by omega)⟩
  case congruent =>
    rw [sum_setIfInBounds hbit (h.inBuffer ⟨bit, hbit⟩ le_rfl), add_sub_add_right_eq_sub, h.congruent]
  case oddInRange =>
    by_cases hi' : i.val = bit
    · simpa only [setIfInBounds_getElem, if_pos hi'] using And.intro hodd ⟨hlow, hhigh⟩
    · simp only [setIfInBounds_getElem, if_neg hi'] at hi ⊢
      exact h.oddInRange i hi
  case separated =>
    have hj' : j.val ≤ bit := not_lt.1 fun hlt => hj (habove j hlt)
    rw [setIfInBounds_getElem, if_neg (by omega)] at hi
    have := hroom i hi
    rw [setIfInBounds_getElem] at hj
    split at hj
    · omega
    · exact h.separated i j hij hi hj
  case top =>
    rw [setIfInBounds_getElem, if_pos rfl]
    omega

end

/-! ### The loop of the encoder (43_wnaf.md R240) -/

/-- What the loop keeps at position `bit`: the digits stand for the low `bit` bits less the carry, a carry comes from a
top bit that is set, and while positions are left the next digit is far enough from the last. -/
structure WnafInv (s : Nat) (sign : Int) (w len bit carry : Nat) (out : DigitStream) : Prop where
  digits : WnafDigits (sign * ((s % 2 ^ bit : Nat) - carry * 2 ^ bit)) w bit out.digit out.count
  carryOfTop : carry = 0 ∨ carry = 1 ∧ 2 ^ bit ≤ 2 * (s % 2 ^ bit)
  room : ∀ i : Fin 256, out.digit[i] ≠ 0 → bit < len → i.val + w ≤ bit
  bitLe : bit ≤ len

theorem wnafInv_start (s : Nat) (sign : Int) (w len : Nat) : WnafInv s sign w len 0 0 DigitStream.empty where
  digits := by simpa [Nat.mod_one] using wnafDigits_empty w
  carryOfTop := .inl rfl
  room i hi := absurd (by simp [DigitStream.empty]) hi
  bitLe := Nat.zero_le len

section
variable {s w len bit carry : Nat} {sign : Int} {out : DigitStream} (h : WnafInv s sign w len bit carry out)
  (hlt : bit < len)
include h

theorem WnafInv.carry_le : carry ≤ 1 := by
  rcases h.carryOfTop with h | ⟨h, -⟩ <;> omega

include hlt

/-- A bit that equals the carry is passed over. -/
theorem WnafInv.skip (hbit : sbits s bit 1 = carry) : WnafInv s sign w len (bit + 1) carry out := by
  have hmod := mod_two_pow_add s bit 1
  rw [hbit] at hmod
  refine ⟨?_, ?_, fun i hi _ => (h.room i hi hlt).trans (Nat.le_succ bit), hlt⟩
  · have hvalue : ((s % 2 ^ (bit + 1) : Nat) : Int) - carry * 2 ^ (bit + 1) = (s % 2 ^ bit : Nat) - carry * 2 ^ bit := by
      rw [hmod, Nat.cast_add, Nat.cast_mul, Nat.cast_pow, Nat.cast_ofNat]
      ring
    rw [hvalue]
    exact h.digits.mono (Nat.le_succ bit)
  · refine h.carryOfTop.imp_right fun ⟨hone, _⟩ => ⟨hone, ?_⟩
    rw [hmod, hone, pow_succ]
    omega

/-- A bit that differs from the carry opens a window, whose word less its carry is the next digit. -/
theorem WnafInv.emit {now word : Nat} (hw : 2 ≤ w) (hlen : len ≤ 256) (hsign : sign = 1 ∨ sign = -1)
    (hbit : sbits s bit 1 ≠ carry) (hnow : now = min w (len - bit)) (hword : word = sbits s bit now + carry) :
    WnafInv s sign w len (bit + now) (word / 2 ^ (w - 1) % 2)
      ⟨out.digit.setIfInBounds bit (sign * (word - (word / 2 ^ (w - 1) % 2 : Nat) * 2 ^ w)), bit + 1⟩ := by
  have hcarryLe := h.carry_le
  have hpos : 0 < now := by omega
  have hle : now ≤ w := by omega
  have hodd : word % 2 = 1 := hword ▸ windowWord_odd hcarryLe hbit hpos
  have hcut : word < 2 ^ now := hword ▸ windowWord_lt hcarryLe hbit hpos
  obtain ⟨hxodd, hlow, hhigh⟩ := windowDigit_oddInRange hw hle hcut hodd hsign rfl
  have hcases := carryOut_cases hw hle hcut
  have hdigits := h.digits.push (by omega) hpos (fun i hi => h.room i hi hlt) hxodd hlow hhigh
  generalize word / 2 ^ (w - 1) % 2 = carry' at *
  refine ⟨?digits, ?carryOfTop, fun i hi hmore => ?room, by omega⟩
  case digits =>
    have hcarry : (carry' : Int) * 2 ^ now = carry' * 2 ^ w := by
      rcases hcases with ⟨rfl, -⟩ | ⟨-, rfl, -⟩ <;> simp
    have hvalue : sign * ((s % 2 ^ bit : Nat) - carry * 2 ^ bit) + sign * (word - carry' * 2 ^ w) * 2 ^ bit =
        sign * ((s % 2 ^ (bit + now) : Nat) - carry' * 2 ^ (bit + now)) := by
      rw [mod_two_pow_add, hword]
      push_cast [pow_add]
      linear_combination sign * 2 ^ bit * hcarry
    exact hvalue ▸ hdigits
  case carryOfTop =>
    refine hcases.imp And.left fun ⟨hone, hfull, hhalf⟩ => ⟨hone, ?_⟩
    subst hfull hword
    exact topBit_of_carryOut hw hcarryLe hodd hhalf
  case room =>
    by_cases hi' : i.val = bit
    · omega
    · rw [setIfInBounds_getElem, if_neg hi'] at hi
      have := h.room i hi hlt
      omega

end

/-- Enough turns take the invariant to the end of the buffer. -/
theorem wnafLoop_inv {s w len : Nat} {sign : Int} (hw : 2 ≤ w) (hlen : len ≤ 256) (hsign : sign = 1 ∨ sign = -1)
    {fuel bit carry : Nat} {out : DigitStream} (h : WnafInv s sign w len bit carry out) (hfuel : len - bit ≤ fuel) :
    WnafInv s sign w len len (wnafLoop s sign w len fuel bit carry out).2
      (wnafLoop s sign w len fuel bit carry out).1 := by
  induction fuel generalizing bit carry out with
  | zero =>
    obtain rfl : bit = len := by have := h.bitLe; omega
    exact h
  | succ fuel ih =>
    rw [wnafLoop]
    split
    next hlt =>
      split
      next hbit => exact ih (h.skip hlt hbit) (by omega)
      next hbit => exact ih (h.emit hlt hw hlen hsign hbit rfl rfl) (by omega)
    next hge =>
      obtain rfl : bit = len := by have := h.bitLe; omega
      exact h

/-! ### The encoder (43_wnaf.md R240 to R243) -/

/-- The magnitude `wnafEncode` works on. -/
def wnafAbs (a : Sc) : Nat := if negativeFlag a then (sneg a).val else a.val

/-- The sign `wnafEncode` gives its digits. -/
def wnafSign (a : Sc) : Int := if negativeFlag a then -1 else 1

/-- The turns of `wnafEncode` from position 0. -/
def wnafRun (a : Sc) (w len : Nat) : DigitStream × Nat :=
  wnafLoop (wnafAbs a) (wnafSign a) w len len 0 0 DigitStream.empty

theorem wnafEncode_eq (a : Sc) (w len : Nat) : wnafEncode a w len =
    if (wnafRun a w len).2 ≠ 0 ∨ wnafAbs a / 2 ^ len ≠ 0 then .error .wnafRange else .ok (wnafRun a w len).1 := rfl

theorem wnafSign_eq (a : Sc) : wnafSign a = 1 ∨ wnafSign a = -1 := by
  unfold wnafSign
  split <;> simp

theorem negativeFlag_iff (a : Sc) : negativeFlag a = true ↔ 2 ^ 255 ≤ a.val := by
  have := a.lt_two_pow
  rw [negativeFlag, beq_iff_eq, sbits]
  omega

theorem wnafAbs_eq (a : Sc) : (wnafAbs a : Int) = wnafMagnitude a.val := by
  have hlt := a.isLt
  unfold wnafAbs wnafMagnitude
  by_cases h : 2 ^ 255 ≤ a.val
  · rw [if_pos ((negativeFlag_iff a).2 h), if_pos (by exact_mod_cast h), sneg_val, Nat.mod_eq_of_lt (by omega)]
    omega
  · rw [if_neg (mt (negativeFlag_iff a).1 h), if_neg (by exact_mod_cast h)]

/-- The magnitude leaves bit 255 clear. -/
theorem wnafAbs_lt (a : Sc) : 2 * wnafAbs a < 2 ^ 256 := by
  have hmagnitude := wnafAbs_eq a
  have hn := n_lt
  unfold wnafMagnitude at hmagnitude
  split at hmagnitude <;> omega

/-- The signed magnitude is congruent to the scalar. -/
theorem wnafSign_mul_wnafAbs (a : Sc) : (wnafSign a * wnafAbs a - a.val) % Config.n = 0 := by
  rw [emod_n_eq_zero_iff]
  unfold wnafSign wnafAbs
  split <;> push_cast [sneg_cast] <;> ring

section
variable {a : Sc} {w len : Nat}

theorem wnafRun_inv (a : Sc) (hw : 2 ≤ w) (hlen : len ≤ 256) :
    WnafInv (wnafAbs a) (wnafSign a) w len len (wnafRun a w len).2 (wnafRun a w len).1 :=
  wnafLoop_inv hw hlen (wnafSign_eq a) (wnafInv_start ..) (by omega)

/-- What the encoder returns has the guarantees (a) to (d) of R241. -/
theorem wnafDigits_of_encode (hw : 2 ≤ w) (hlen : len ≤ 256) {d : DigitStream} (h : wnafEncode a w len = .ok d) :
    WnafDigits a.val w len d.digit d.count := by
  have hinv := wnafRun_inv a hw hlen
  rw [wnafEncode_eq] at h
  split at h
  · cases h
  next hfit =>
    obtain ⟨hcarry, hdiv⟩ : (wnafRun a w len).2 = 0 ∧ wnafAbs a / 2 ^ len = 0 := by simpa using hfit
    obtain rfl := Except.ok.inj h
    have hdigits := hinv.digits
    rw [hcarry, Nat.mod_eq_of_lt ((Nat.div_eq_zero_iff_lt (by positivity)).1 hdiv), Nat.cast_zero, zero_mul,
      sub_zero] at hdigits
    exact hdigits.of_emod (wnafSign_mul_wnafAbs a)

/-- F_WNAF_RANGE is the encoder's only fault (R241). -/
theorem wnafEncode_cases (a : Sc) (w len : Nat) :
    (∃ d, wnafEncode a w len = .ok d) ∨ wnafEncode a w len = .error .wnafRange := by
  rw [wnafEncode_eq]
  split
  · exact .inr rfl
  · exact .inl ⟨_, rfl⟩

/-- A magnitude that leaves the top bit of the buffer free leaves no carry. -/
theorem exists_wnafEncode_of_lt (hw : 2 ≤ w) (hlen : len ≤ 256) (h : 2 * wnafAbs a < 2 ^ len) :
    ∃ d, wnafEncode a w len = .ok d := by
  have hfit : wnafAbs a < 2 ^ len := by omega
  have hcarry : (wnafRun a w len).2 = 0 := by
    refine (wnafRun_inv a hw hlen).carryOfTop.resolve_right fun ⟨_, htop⟩ => ?_
    rw [Nat.mod_eq_of_lt hfit] at htop
    omega
  exact ⟨_, by rw [wnafEncode_eq, if_neg (by simp [hcarry, Nat.div_eq_of_lt hfit])]⟩

/-- A magnitude with a bit past the buffer does not fit. -/
theorem wnafEncode_of_le (h : 2 ^ len ≤ wnafAbs a) : wnafEncode a w len = .error .wnafRange := by
  rw [wnafEncode_eq, if_pos (.inr (Nat.div_pos h (Nat.two_pow_pos len)).ne')]

end

/-! ### The command (43_wnaf.md R241) -/

theorem hasWord_wnaf (rd : WSel) (ra : SSel) (w : Fin 32) (len : Fin 512) :
    HasWord (.wnaf rd ra w len) (0x40 + 0x100 * rd + 0x1000 * ra + 0x10000 * w + 0x200000 * len) := by
  refine hasWord_of_toNat_encode rfl ?_
  rw [encode, wordW, BitVec.toNat_ofNat, show (Instr.wnaf rd ra w len).opcode.toNat = 0x40 from rfl]
  omega

section
variable {s : State} {ra : SSel} {w : Fin 32} {len : Fin 512} (hw : 2 ≤ w.val) (hlen : len.val ≤ 256)
include hw hlen

theorem exec_wnaf (s : State) (rd : WSel) (ra : SSel) : exec (.wnaf rd ra w len) s =
    finish (.wnaf rd ra w len) s Trace.none ((wnafEncode (s.readS ra) w len).map fun d =>
      (s.writeW rd d.toBuf).writeRetval (BitVec.ofNat 9 d.count)) := by
  have hparam : ¬ (w.val < 2 ∨ 256 < len.val) := by omega
  rw [exec, execWnaf, if_neg hparam]
  cases wnafEncode (s.readS ra) w len <;> rfl

/-- Where the encoder returns, the command completes with its digits. -/
theorem wnaf_completes {d : DigitStream} (h : wnafEncode (s.readS ra) w len = .ok d) (rd : WSel) :
    ∃ digit count, WnafDigits (s.sVal ra) w len digit count ∧ count ≤ len.val ∧
      Completes (.wnaf rd ra w len) s (withDigits s rd digit count) := by
  have hexec := exec_wnaf hw hlen s rd ra
  rw [h] at hexec
  exact ⟨d.digit, d.count, sVal_eq s ra ▸ wnafDigits_of_encode hw hlen h, wnafEncode_count_le h,
    completes_of_ok hexec rfl rfl rfl⟩

/-- Where the encoder does not fit the buffer, the command raises F_WNAF_RANGE. -/
theorem wnaf_raisesFault (h : wnafEncode (s.readS ra) w len = .error .wnafRange) (rd : WSel) :
    RaisesFault (.wnaf rd ra w len) s 0x06 := by
  have hexec := exec_wnaf hw hlen s rd ra
  rw [h] at hexec
  exact raisesFault_of_error hexec

end

/-- Settles O46: the loop's invariant at the end of the buffer gives the guarantees where the encoder returns, and no
carry where the magnitude leaves the top bit free. -/
theorem wnafEncoding : Obligations.WnafEncoding := by
  unfold Obligations.WnafEncoding
  intro s rd ra w len hw hlen
  have hmagnitude : wnafMagnitude (s.sVal ra) = wnafAbs (s.readS ra) := by rw [sVal_eq, wnafAbs_eq]
  refine ⟨hasWord_wnaf rd ra w len, ?either, fun hfree => ?completes, fun hbig => ?raises⟩
  case either =>
    rcases wnafEncode_cases (s.readS ra) w len with ⟨d, hd⟩ | hrange
    · exact .inl (wnaf_completes hw hlen hd rd)
    · exact .inr (wnaf_raisesFault hw hlen hrange rd)
  case completes =>
    have hlt : 2 * wnafAbs (s.readS ra) < 2 ^ len.val := by
      rcases hfree with hfull | hlt
      · exact hfull ▸ wnafAbs_lt (s.readS ra)
      · exact_mod_cast hmagnitude ▸ hlt
    obtain ⟨d, hd⟩ := exists_wnafEncode_of_lt hw hlen hlt
    exact wnaf_completes hw hlen hd rd
  case raises =>
    exact wnaf_raisesFault hw hlen (wnafEncode_of_le (by exact_mod_cast hmagnitude ▸ hbig)) rd

end Sys2Proof.Machine
end

section
/-! PROOFS. The two kinds of context: build, clone and clear, the accessors of the generator table, and the multiplier
as a sum of directly indexed entries, in constant time (44_generator.md R261 to R273; 45_dual_mul.md R301 to R304). -/

namespace Sys2Proof.Machine

/-! ### The words that name a slot (30_encoding.md R111) -/

/-- A slot number of either kind fits its two-bit field (30_encoding.md R112). -/
theorem slot_lt (c : Fin 2) : c.val < 4 := by omega

/-- The word of a command of format R that names one slot or two, as the sum of its fields. -/
theorem hasWord_of_slotWordR {i : Instr} {rd ra cs cx w : Nat} (hi : i.WellFormed)
    (h : encode i = wordR i.opcode rd ra 0 0 cs cx)
    (hw : i.opcode.toNat + 0x100 * rd + 0x1000 * ra + 0x10000000 * cs + 0x40000000 * cx = w)
    (hcx : cx < 4) (hcs : cs < 4 := by decide) (hrd : rd < 16 := by omega) (hra : ra < 16 := by omega) :
    HasWord i w := by
  refine hasWord_of_toNat_encode hi ?_
  have hop := i.opcode.isLt
  rw [h, wordR, BitVec.toNat_ofNat, ← hw]
  omega

/-- The word of a command of format T, as the sum of its fields. -/
theorem hasWord_of_wordT {i : Instr} {rd ra j cx w : Nat} (hi : i.WellFormed)
    (h : encode i = wordT i.opcode rd ra j cx)
    (hw : i.opcode.toNat + 0x100 * rd + 0x1000 * ra + 0x10000 * j + 0x40000000 * cx = w)
    (hcx : cx < 4) (hrd : rd < 16 := by omega) (hra : ra < 16 := by omega) (hj : j < 64 := by omega) :
    HasWord i w := by
  refine hasWord_of_toNat_encode hi ?_
  have hop := i.opcode.isLt
  rw [h, wordT, BitVec.toNat_ofNat, ← hw]
  omega

/-! ### Build, clone and clear -/

theorem completes_writeG {i : Instr} {s : State} {tr : Trace} {cx : GSlot} {c : GenCtx}
    (h : exec i s = finish i s tr (.ok (s.writeG cx c))) : Completes i s (s.putG cx c) :=
  completes_of_ok h rfl rfl rfl

theorem completes_writeM {i : Instr} {s : State} {tr : Trace} {cx : MSlot} {c : MulCtx}
    (h : exec i s = finish i s tr (.ok (s.writeM cx c))) : Completes i s (s.putM cx c) :=
  completes_of_ok h rfl rfl rfl

theorem exec_genBuild (cx : GSlot) (s : State) : exec (.genBuild cx) s =
    finish (.genBuild cx) s Trace.none (.ok (if s.gctx[cx].built then s else s.writeG cx .justBuilt)) := rfl

theorem exec_mulBuild (cx : MSlot) (s : State) : exec (.mulBuild cx) s =
    finish (.mulBuild cx) s Trace.none (.ok (if s.mctx[cx].built then s else s.writeM cx .justBuilt)) := rfl

theorem genBuild_completes (cx : GSlot) (s : State) :
    Completes (.genBuild cx) s (if s.gctx[cx].built then s else s.putG cx .justBuilt) := by
  have hexec := exec_genBuild cx s
  split at hexec
  · rw [if_pos ‹_›]
    exact completes_of_ok hexec rfl rfl rfl
  · rw [if_neg ‹_›]
    exact completes_writeG hexec

theorem mulBuild_completes (cx : MSlot) (s : State) :
    Completes (.mulBuild cx) s (if s.mctx[cx].built then s else s.putM cx .justBuilt) := by
  have hexec := exec_mulBuild cx s
  split at hexec
  · rw [if_pos ‹_›]
    exact completes_of_ok hexec rfl rfl rfl
  · rw [if_neg ‹_›]
    exact completes_writeM hexec

/-- Settles O47: a build tests `built` and then writes one slot. -/
theorem buildFillsTheSlotOnce : Obligations.BuildFillsTheSlotOnce := by
  unfold Obligations.BuildFillsTheSlotOnce
  exact ⟨fun s cx => ⟨hasWord_of_slotWordR rfl rfl rfl (slot_lt cx), genBuild_completes cx s⟩,
    fun s cx => ⟨hasWord_of_slotWordR rfl rfl rfl (slot_lt cx), mulBuild_completes cx s⟩⟩

/-- Settles O48: a clone and a clear each write one slot, whatever it held. -/
theorem cloneCopiesAndClearErases : Obligations.CloneCopiesAndClearErases := by
  unfold Obligations.CloneCopiesAndClearErases
  exact ⟨fun s cx cs => ⟨hasWord_of_slotWordR rfl rfl rfl (slot_lt cx) (slot_lt cs), completes_writeG rfl⟩,
    fun s cx => ⟨hasWord_of_slotWordR rfl rfl rfl (slot_lt cx), completes_writeG rfl⟩,
    fun s cx cs => ⟨hasWord_of_slotWordR rfl rfl rfl (slot_lt cx) (slot_lt cs), completes_writeM rfl⟩,
    fun s cx => ⟨hasWord_of_slotWordR rfl rfl rfl (slot_lt cx), completes_writeM rfl⟩⟩

/-! ### What a command that reads the generator table leaks (00_scope.md R17, 20_memory.md R88) -/

/-- From `s` the command `i` draws `draws` outputs, and ends in a fault with nothing read or in results with the entries
`reads` read. -/
def EndsReading (i : Instr) (s : State) (draws : Nat) (reads : List TblIndex) : Prop :=
  (∃ f, exec i s = finish i s ⟨draws, []⟩ (.error f)) ∨ ∃ u, exec i s = finish i s ⟨draws, reads⟩ (.ok u)

section
variable {i : Instr} {reads : List TblIndex} (hi : leaksFreely i = false)
include hi

theorem EndsReading.leak_eq {s t : State} {draws : Nat} (h : EndsReading i s draws reads)
    (ht : exec i s = .next t) :
    t.leak = some ⟨encode i, t.leakFault, ⟨draws, if t.leakFault = none then reads else []⟩, none⟩ := by
  rcases h with ⟨f, hexec⟩ | ⟨u, hexec⟩ <;> rw [hexec] at ht
  · have hfault : t.leakFault = some f := by rw [← Host.Outcome.next.inj ht, afterCommand, State.leakFault_recordLeak]
    rw [leak_of_finish hi ht, hfault, if_neg (Option.some_ne_none f)]
  · have hfault : t.leakFault = none := by rw [← Host.Outcome.next.inj ht, afterCommand, State.leakFault_recordLeak]
    rw [leak_of_finish hi ht, hfault, if_pos rfl]

/-- A command that draws nothing and reads the same entries wherever it completes is constant time. -/
theorem constantTime_of_endsReading (h : ∀ s, EndsReading i s 0 reads) : ConstantTime i := by
  intro s s' t t' ht ht' hfault
  rw [(h s).leak_eq hi ht, (h s').leak_eq hi ht', hfault]

/-- A command that reads the same entries wherever it completes leaks its fault and its number of draws alone. -/
theorem leak_congr_of_endsReading (h : ∀ s, ∃ draws, EndsReading i s draws reads) {s s' t t' : State}
    (ht : exec i s = .next t) (ht' : exec i s' = .next t') (hfault : t.leakFault = t'.leakFault)
    (hdraws : t.leakDraws = t'.leakDraws) : t.leak = t'.leak := by
  obtain ⟨n, hn⟩ := h s
  obtain ⟨n', hn'⟩ := h s'
  have hleak := hn.leak_eq hi ht
  have hleak' := hn'.leak_eq hi ht'
  obtain rfl : n = n' := by simpa [State.leakDraws, hleak, hleak'] using hdraws
  rw [hleak, hleak', hfault]

end

theorem leakReads_of_ok {i : Instr} {s t u : State} {tr : Trace} (h : exec i s = finish i s tr (.ok u))
    (ht : exec i s = .next t) : t.leakReads = some tr.reads := by
  rw [← Host.Outcome.next.inj ((finish_ok i s u tr).symm.trans (h.symm.trans ht)), State.leakReads_recordLeak]

/-! ### The accessors (44_generator.md R264, R265) -/

section
variable {s : State} {cx : GSlot} (rd : TSel) (ra : SSel) (i : Fin 16) (j : Fin 64)

theorem exec_genSel_built {table : GenTable} (h : s.gctx[cx].prec = some table) :
    exec (.genSel rd ra j cx) s = finish (.genSel rd ra j cx) s ⟨0, (List.finRange 16).map fun e => .gen j e⟩
      (.ok (s.writeT rd (table.read j (window (s.readS ra) j)))) := by
  simp only [exec, execGenSel, (GenCtx.table_ok_iff _ _).2 h, genSelect_eq]

theorem exec_genSel_unbuilt (h : s.gctx[cx].prec = none) :
    exec (.genSel rd ra j cx) s = finish (.genSel rd ra j cx) s Trace.none (.error .notBuilt) := by
  simp only [exec, execGenSel, (GenCtx.table_error_iff _ _).2 ⟨h, rfl⟩]

theorem exec_genRd_built {table : GenTable} (h : s.gctx[cx].prec = some table) :
    exec (.genRd rd i j cx) s = finish (.genRd rd i j cx) s ⟨0, [.gen j i]⟩ (.ok (s.writeT rd (table.read j i))) := by
  simp only [exec, execGenRd, (GenCtx.table_ok_iff _ _).2 h]

theorem exec_genRd_unbuilt (h : s.gctx[cx].prec = none) :
    exec (.genRd rd i j cx) s = finish (.genRd rd i j cx) s Trace.none (.error .notBuilt) := by
  simp only [exec, execGenRd, (GenCtx.table_error_iff _ _).2 ⟨h, rfl⟩]

end

theorem genSel_constantTime (rd : TSel) (ra : SSel) (j : Fin 64) (cx : GSlot) : ConstantTime (.genSel rd ra j cx) :=
  constantTime_of_endsReading rfl fun s => by
    cases h : s.gctx[cx].prec with
    | none => exact .inl ⟨_, exec_genSel_unbuilt rd ra j h⟩
    | some table => exact .inr ⟨_, exec_genSel_built rd ra j h⟩

/-- The window of a scalar operand from its register's content (44_generator.md R264). -/
theorem window_readS (s : State) (ra : SSel) (j : Fin 64) :
    (window (s.readS ra) j).val = s.sRaw[ra].toNat % Config.n / 16 ^ j.val % 16 := by
  rw [show 16 ^ j.val = 2 ^ (4 * j.val) by rw [pow_mul]; norm_num]
  rfl

/-- The content of a storage value is that of its two coordinates. -/
theorem stToReg_eq_storageRaw (a : St) : stToReg a = storageRaw a.x.val a.y.val := by
  rw [storageRaw, ← feToRaw_of_cast (Int.cast_natCast _).symm, ← feToRaw_of_cast (Int.cast_natCast _).symm]
  rfl

/-- Settles O49: the conditional-move lookup returns the directly indexed entry and reads all 16, so both accessors
write one storage value. -/
theorem tableAccessors : Obligations.TableAccessors := by
  unfold Obligations.TableAccessors
  intro s rd ra j i cx
  refine ⟨hasWord_of_wordT rfl rfl rfl (slot_lt cx), hasWord_of_wordT rfl rfl rfl (slot_lt cx),
    genSel_constantTime rd ra j cx, fun h => ?_, fun table d h hd => ?_⟩
  · exact ⟨raisesFault_of_error (exec_genSel_unbuilt rd ra j h), raisesFault_of_error (exec_genRd_unbuilt rd i j h)⟩
  · obtain rfl : d = window (s.readS ra) j := Fin.ext (hd.trans (window_readS s ra j).symm)
    have hsel := exec_genSel_built rd ra j h
    have hrd := exec_genRd_built rd i j h
    exact ⟨completes_writeT hsel (stToReg_eq_storageRaw _), completes_writeT hrd (stToReg_eq_storageRaw _),
      fun t => leakReads_of_ok hsel, fun t => leakReads_of_ok hrd⟩

/-! ### The multiplier (44_generator.md R267, R273) -/

/-- The entries `gen_mul_core` reads: all 1024, in order. -/
def genMulReads : List TblIndex := (List.finRange 64).flatMap fun j => (List.finRange 16).map fun i => .gen j i

/-- The window loop adds the directly indexed entries of its windows, and reads every entry of each. -/
theorem genMulOver_eq (t : GenTable) (gnb : Sc) (js : List (Fin 64)) (r : Gej) :
    genMulOver t gnb js r = (js.foldl (fun r j => gejAddGeCt r (geOfSt t[j][window gnb j])) r,
      js.flatMap fun j => (List.finRange 16).map fun i => .gen j i) := by
  induction js generalizing r with
  | nil => rfl
  | cons j rest ih =>
    rw [genMulOver, genSelect_eq, ih]
    rfl

theorem genMulCore_eq (t : GenTable) (initial : Gej) (blind k : Sc) :
    genMulCore t initial blind k = (windowSum t initial (ssub k blind), genMulReads) :=
  genMulOver_eq ..

section
variable {s : State} {cx : GSlot} (rd : JSel) (ra : SSel)

theorem exec_genMul_built {table : GenTable} (h : s.gctx[cx].prec = some table) :
    exec (.genMul rd ra cx) s = finish (.genMul rd ra cx) s ⟨0, genMulReads⟩
      (.ok (s.writeJ rd (windowSum table s.gctx[cx].initial (ssub (s.readS ra) s.gctx[cx].blind)))) := by
  simp only [exec, execGenMul, (GenCtx.table_ok_iff _ _).2 h, genMulCore_eq]

theorem exec_genMul_unbuilt (h : s.gctx[cx].prec = none) :
    exec (.genMul rd ra cx) s = finish (.genMul rd ra cx) s Trace.none (.error .notBuilt) := by
  simp only [exec, execGenMul, (GenCtx.table_error_iff _ _).2 ⟨h, rfl⟩]

end

theorem genMul_constantTime (rd : JSel) (ra : SSel) (cx : GSlot) : ConstantTime (.genMul rd ra cx) :=
  constantTime_of_endsReading rfl fun s => by
    cases h : s.gctx[cx].prec with
    | none => exact .inl ⟨_, exec_genMul_unbuilt rd ra h⟩
    | some table => exact .inr ⟨_, exec_genMul_built rd ra h⟩

/-- A difference from a scalar operand, from its register's content (10_state.md R33). -/
theorem ssub_readS (s : State) (ra : SSel) (b : Sc) :
    ssub (s.readS ra) b = scOfNat (s.sRaw[ra].toNat + (Config.n - b.val)) :=
  Fin.ext (Nat.mod_add_mod ..)

/-- Settles O50: the multiplier's loop is the sum of directly indexed entries and reads all of the table. -/
theorem genMulAddsOneEntryPerWindow : Obligations.GenMulAddsOneEntryPerWindow := by
  unfold Obligations.GenMulAddsOneEntryPerWindow
  intro s rd ra cx
  refine ⟨hasWord_of_slotWordR rfl rfl rfl (slot_lt cx), genMul_constantTime rd ra cx, fun table h => ?_⟩
  have hexec := exec_genMul_built rd ra h
  exact ⟨ssub_readS s ra _ ▸ completes_of_ok hexec rfl rfl rfl, fun t => leakReads_of_ok hexec⟩

/-! ### The multiplier's contract (44_generator.md R267, R268) -/

/-- A value is the identity exactly where its point is. -/
theorem Gej.StandsFor.inf_iff {a : Gej} {P : Point} (h : a.StandsFor P) : a.inf = true ↔ P = 0 := by
  refine ⟨fun hinf => (Gej.standsFor_zero hinf).1 h, fun hP => ?_⟩
  rcases h with ⟨hinf, -⟩ | ⟨-, -, x, y, hns, rfl, -⟩
  · exact hinf
  · exact absurd hP (WeierstrassCurve.Affine.Point.some_ne_zero hns)

theorem smul_basePoint_eq_zero_iff [Fact (Nat.Prime Config.p)] {G : Point} (hG : basePoint.StandsFor G) (k : Sc) :
    k.val • G = 0 ↔ k.val = 0 :=
  ⟨not_imp_not.1 (smul_basePoint_ne_zero hG), fun h => by rw [h, zero_nsmul]⟩

/-- On the table of R263 the sum of one entry per window is `k·G` under any blinding (44_generator.md R268). -/
theorem windowSum_standsFor [Fact (Nat.Prime Config.p)] {G : Point} (hG : basePoint.StandsFor G) {initial : Gej}
    {blind : Sc} (hinitial : initial.StandsFor (blind.val • G)) (k : Sc) :
    (windowSum genTable initial (ssub k blind)).StandsFor (k.val • G) := by
  simpa only [genMulCore_eq] using genMulCore_standsFor hG hinitial k

/-- Settles O51: on the table of R263 the sum is `k·G`, and the base point's order is `n`. -/
theorem genMulIsScalarMultiple : Obligations.GenMulIsScalarMultiple := by
  unfold Obligations.GenMulIsScalarMultiple
  intro _ s rd ra cx G hG hvalid
  obtain ⟨hprec, -, hinitial⟩ := hvalid
  have hsum := windowSum_standsFor hG (hinitial G hG) (s.readS ra)
  obtain ⟨t, ht, hres⟩ := readJ_standsFor_of_ok (rd := rd) (exec_genMul_built rd ra hprec) (by simp) hsum
  refine ⟨t, ht, hres, ?_⟩
  rw [← smul_basePoint_eq_zero_iff hG, ← hres.inf_iff, State.readJ, gejOfReg_inf]

end Sys2Proof.Machine
end

section
/-! PROOFS. The blinding refresh (44_generator.md R266): its two sampling loops accept or reject, and `GEN_BLIND` commits
or raises F_DRBG accordingly, for every DRBG and every cap. -/

namespace Sys2Proof.Machine

/-! ### The sampling loops -/

section
variable {draw : Nat → Nat} {bound cap start : Nat}

theorem sampleBelow_of_accepts {u : Nat} (h : Accepts draw bound cap start u) :
    ∃ hu : draw u < bound, sampleBelow draw bound cap start = (some ⟨draw u, hu⟩, u + 1) := by
  obtain ⟨hstart, hcap, hpos, hlt, hbefore⟩ := h
  rcases sampleBelow_spec draw bound cap start with ⟨v, hv, -, hfirst, hkept, hs⟩ | ⟨hnone, -⟩
  · obtain rfl : v = u := by
      rcases Nat.lt_trichotomy v u with hvu | rfl | huv
      · have := hbefore v hv hvu
        omega
      · rfl
      · exact absurd ⟨hpos, hlt⟩ (hfirst u hstart huv)
    exact ⟨hlt, hs⟩
  · exact absurd ⟨hpos, hlt⟩ (hnone u hstart hcap)

theorem sampleBelow_of_rejects (h : Rejects draw bound cap start) :
    sampleBelow draw bound cap start = (none, start + cap) := by
  rcases sampleBelow_spec draw bound cap start with ⟨u, hstart, hcap, -, hkept, -⟩ | ⟨-, hs⟩
  · have := h u hstart hcap
    omega
  · exact hs

theorem accepts_or_rejects (draw : Nat → Nat) (bound cap start : Nat) :
    (∃ u, Accepts draw bound cap start u) ∨ Rejects draw bound cap start := by
  rcases sampleBelow_spec draw bound cap start with ⟨u, hstart, hcap, hfirst, hkept, -⟩ | ⟨hnone, -⟩
  · refine .inl ⟨u, hstart, hcap, hkept.1, hkept.2, fun v hv hvu => ?_⟩
    have := hfirst v hv hvu
    omega
  · refine .inr fun v hv hvc => ?_
    have := hnone v hv hvc
    omega

end

/-- One of the two loops of `GEN_BLIND` rejects `cap` candidates. -/
def BlindRejects (draw : Nat → Nat) (cap : Nat) : Prop :=
  Rejects draw Config.p cap 0 ∨ ∃ t1, Accepts draw Config.p cap 0 t1 ∧ Rejects draw Config.n cap (t1 + 1)

/-- The two loops of `GEN_BLIND` accept the outputs `t1` and `t2`. -/
def BlindAccepts (draw : Nat → Nat) (cap t1 t2 : Nat) : Prop :=
  Accepts draw Config.p cap 0 t1 ∧ Accepts draw Config.n cap (t1 + 1) t2

theorem blindAccepts_or_rejects (draw : Nat → Nat) (cap : Nat) :
    (∃ t1 t2, BlindAccepts draw cap t1 t2) ∨ BlindRejects draw cap := by
  rcases accepts_or_rejects draw Config.p cap 0 with ⟨t1, h1⟩ | h1
  · rcases accepts_or_rejects draw Config.n cap (t1 + 1) with ⟨t2, h2⟩ | h2
    · exact .inl ⟨t1, t2, h1, h2⟩
    · exact .inr (.inr ⟨t1, h1, h2⟩)
  · exact .inr (.inl h1)

theorem blindDraws_of_accepts {draw : Nat → Nat} {cap t1 t2 : Nat} (h : BlindAccepts draw cap t1 t2) :
    blindDraws draw cap = (.ok (feOfNat (draw t1), scOfNat (draw t2)), t2 + 1) := by
  obtain ⟨hscale, hb⟩ := h
  obtain ⟨hp, hs1⟩ := sampleBelow_of_accepts hscale
  obtain ⟨hn, hs2⟩ := sampleBelow_of_accepts hb
  have hfe : feOfNat (draw t1) = ⟨draw t1, hp⟩ := feOfNat_self ⟨draw t1, hp⟩
  have hsc : scOfNat (draw t2) = ⟨draw t2, hn⟩ := scOfNat_self ⟨draw t2, hn⟩
  simp only [blindDraws, hs1, hs2, hfe, hsc]

theorem blindDraws_of_rejects {draw : Nat → Nat} {cap : Nat} (h : BlindRejects draw cap) :
    ∃ drawn, blindDraws draw cap = (.error .drbg, drawn) := by
  rcases h with h1 | ⟨t1, h1, h2⟩
  · exact ⟨_, by simp only [blindDraws, sampleBelow_of_rejects h1]; rfl⟩
  · obtain ⟨_, hs1⟩ := sampleBelow_of_accepts h1
    exact ⟨_, by simp only [blindDraws, hs1, sampleBelow_of_rejects h2]; rfl⟩

/-! ### The command -/

section
variable {draw : Nat → Nat} {cap : Nat} {s : State} {cx : GSlot} {table : GenTable}

theorem blindWith_unbuilt (h : s.gctx[cx].prec = none) :
    blindWith draw cap cx s = finish (.genBlind cx) s Trace.none (.error .notBuilt) := by
  simp only [blindWith, (GenCtx.table_error_iff _ _).2 ⟨h, rfl⟩]

theorem blindWith_of_accepts (hprec : s.gctx[cx].prec = some table) {t1 t2 : Nat} (h : BlindAccepts draw cap t1 t2) :
    blindWith draw cap cx s = finish (.genBlind cx) s ⟨t2 + 1, genMulReads⟩
      (.ok (blinded s cx table (draw t1) (scOfNat (draw t2)))) := by
  simp only [blindWith, (GenCtx.table_ok_iff _ _).2 hprec, blindDraws_of_accepts h, reblind, genMulCore_eq]
  rfl

theorem blindWith_of_rejects (hprec : s.gctx[cx].prec = some table) (h : BlindRejects draw cap) :
    ∃ drawn, blindWith draw cap cx s = finish (.genBlind cx) s ⟨drawn, []⟩ (.error .drbg) := by
  obtain ⟨drawn, hdraws⟩ := blindDraws_of_rejects h
  exact ⟨drawn, by simp only [blindWith, (GenCtx.table_ok_iff _ _).2 hprec, hdraws]⟩

end

theorem exec_genBlind (s : State) (cx : GSlot) :
    exec (.genBlind cx) s = blindWith (blindOutput s cx) Config.retryCap cx s := rfl

/-- Settles O53: `blindWith` ends as its two loops do. -/
theorem blindingForEveryDrbg : Obligations.BlindingForEveryDrbg := by
  unfold Obligations.BlindingForEveryDrbg
  refine ⟨exec_genBlind, fun s cx table draw cap hprec => ⟨fun t1 t2 h1 h2 => ?_, fun h => ?_⟩⟩
  · refine ⟨_, (blindWith_of_accepts hprec ⟨h1, h2⟩).trans (finish_ok ..), ?_, ?_, ?_, State.arch_recordLeak ..⟩
    · exact State.recordLeak_host ..
    · exact State.recordLeak_response ..
    · exact State.leakDraws_recordLeak ..
  · obtain ⟨drawn, hends⟩ := blindWith_of_rejects hprec h
    refine ⟨_, hends.trans (finish_error ..), ?_, ?_, State.arch_recordLeak ..⟩
    · exact State.recordLeak_host ..
    · exact State.recordLeak_response ..

theorem genBlind_endsReading (cx : GSlot) (s : State) : ∃ draws, EndsReading (.genBlind cx) s draws genMulReads := by
  cases hprec : s.gctx[cx].prec with
  | none => exact ⟨0, .inl ⟨_, (exec_genBlind s cx).trans (blindWith_unbuilt hprec)⟩⟩
  | some table =>
    rcases blindAccepts_or_rejects (blindOutput s cx) Config.retryCap with ⟨t1, t2, h⟩ | h
    · exact ⟨_, .inr ⟨_, (exec_genBlind s cx).trans (blindWith_of_accepts hprec h)⟩⟩
    · obtain ⟨drawn, hends⟩ := blindWith_of_rejects hprec h
      exact ⟨drawn, .inl ⟨_, (exec_genBlind s cx).trans hends⟩⟩

/-- Settles O54: whatever the DRBG gives, both loops accept or one rejects. -/
theorem blindingCommitsOrFaults : Obligations.BlindingCommitsOrFaults := by
  unfold Obligations.BlindingCommitsOrFaults
  intro s cx
  refine ⟨hasWord_of_slotWordR rfl rfl rfl (slot_lt cx),
    fun s' t t' => leak_congr_of_endsReading rfl (genBlind_endsReading cx), fun table hprec => ?_⟩
  rcases blindAccepts_or_rejects (blindOutput s cx) Config.retryCap with ⟨t1, t2, h1, h2⟩ | h
  · have hexec := (exec_genBlind s cx).trans (blindWith_of_accepts hprec ⟨h1, h2⟩)
    exact .inl ⟨t1, t2, h1, h2, completes_of_ok hexec rfl rfl rfl⟩
  · obtain ⟨drawn, hends⟩ := blindWith_of_rejects hprec h
    exact .inr ⟨h, raisesFault_of_error ((exec_genBlind s cx).trans hends)⟩

end Sys2Proof.Machine
end

section
/-! PROOFS. The signed odd lookup and the dual multiplier as the rules state them: the index and the sign a digit names,
the two digit streams, and the left-to-right pass over them (20_memory.md R89; 45_dual_mul.md R305, R306, R310). -/

namespace Sys2Proof.Machine

/-! ### The signed odd lookup (20_memory.md R89, 45_dual_mul.md R305) -/

theorem hasWord_pregLookup (rd : ASel) (simm16 : BitVec 16) (cx : MSlot) :
    HasWord (.pregLookup rd simm16 cx) (0x63 + 0x100 * rd + 0x1000 * simm16.toNat + 0x40000000 * cx) := by
  refine hasWord_of_toNat_encode rfl ?_
  have himm := simm16.isLt
  have hcx := slot_lt cx
  rw [encode, wordI, BitVec.toNat_ofNat, show (Instr.pregLookup rd simm16 cx).opcode.toNat = 0x63 from rfl]
  omega

theorem oddIndex_of_even (len : Nat) {d : Int} (h : d % 2 = 0) : oddIndex len d = .error .index := if_pos h

section
variable {s : State} {cx : MSlot} {table : MulTable} (rd : ASel) {simm16 : BitVec 16}

theorem exec_pregLookup_even (h : s.mctx[cx].preG = some table) (hd : simm16.toInt % 2 = 0) :
    exec (.pregLookup rd simm16 cx) s = finish (.pregLookup rd simm16 cx) s Trace.none (.error .index) := by
  simp only [exec, execPregLookup, (MulCtx.table_ok_iff _ _).2 h, sext16, oddIndex_of_even _ hd]

theorem exec_pregLookup_odd (h : s.mctx[cx].preG = some table) {idx : Fin 16384}
    (hidx : 2 * idx.val + 1 = simm16.toInt.natAbs) :
    exec (.pregLookup rd simm16 cx) s = finish (.pregLookup rd simm16 cx) s ⟨0, [.mul idx]⟩
      (.ok (s.writeA rd (oddSigned simm16.toInt (geOfSt (table.read idx))))) := by
  simp only [exec, execPregLookup, (MulCtx.table_ok_iff _ _).2 h, sext16, (oddIndex_ok_iff _ _ idx).2 hidx]

end

/-- A storage value is never the identity, so the accessor negates it for a negative digit. -/
theorem oddSigned_geOfSt {d : Int} (hd : d ≠ 0) (e : St) :
    oddSigned d (geOfSt e) = if d < 0 then geNeg (geOfSt e) else geOfSt e :=
  oddSigned_eq d (geOfSt e) hd fun h => absurd h Bool.false_ne_true

/-- The content of a signed entry is its `x` and its signed `y`. -/
theorem geToReg_oddSigned {d : Int} (hd : d ≠ 0) (e : St) :
    geToReg (oddSigned d (geOfSt e)) = affineRaw e.x.val (if d < 0 then -e.y.val else e.y.val) := by
  rw [oddSigned_geOfSt hd]
  split
  · exact geToReg_finite (Int.cast_natCast _).symm (by simp [geOfSt, fneg_cast, -fneg_val])
  · exact geToReg_finite (Int.cast_natCast _).symm (Int.cast_natCast _).symm

/-- Settles O55: the index test refuses an even immediate and finds the entry of an odd one. -/
theorem signedOddLookup : Obligations.SignedOddLookup := by
  unfold Obligations.SignedOddLookup
  intro s rd simm16 cx
  refine ⟨hasWord_pregLookup rd simm16 cx, fun table h => ⟨fun heven => ?_, fun hodd idx hidx => ?_⟩⟩
  · exact raisesFault_of_error (exec_pregLookup_even rd h heven)
  · have hexec := exec_pregLookup_odd rd h hidx
    exact ⟨completes_writeA hexec (geToReg_oddSigned (by omega) _), fun t => leakReads_of_ok hexec⟩

/-! ### The digit streams (43_wnaf.md R241, 45_dual_mul.md R310) -/

/-- The stream is the encoding of `a` where it is needed, and empty where it is not (R310). -/
def DigitStream.Encodes (d : DigitStream) (needed : Prop) (a : Sc) (w : Nat) : Prop :=
  (needed → wnafEncode a w 256 = .ok d) ∧ (¬ needed → d = .empty)

/-- Each nonzero digit of the stream names an entry of an odd table of `len` entries (20_memory.md R89). -/
def DigitStream.NamesEntries (d : DigitStream) (len : Nat) : Prop :=
  ∀ i, d.at i ≠ 0 → ∃ idx : Fin len, 2 * idx.val + 1 = (d.at i).natAbs

theorem DigitStream.at_of_count_le {d : DigitStream} {i : Nat} (hi : d.count ≤ i) : d.at i = 0 := if_neg (not_lt.2 hi)

section
variable {d : DigitStream} {needed : Prop} {a : Sc} {w : Nat} (h : d.Encodes needed a w)
include h

/-- A stream has the guarantees of R241, for its scalar or for 0. -/
theorem DigitStream.Encodes.wnafDigits (hw : 2 ≤ w) :
    ∃ v : Int, (needed → v = a.val) ∧ (¬ needed → v = 0) ∧ WnafDigits v w 256 d.digit d.count := by
  obtain ⟨hencode, hempty⟩ := h
  by_cases hneeded : needed
  · exact ⟨a.val, fun _ => rfl, absurd hneeded, wnafDigits_of_encode hw le_rfl (hencode hneeded)⟩
  · have hdigits := (wnafDigits_empty w).mono (Nat.zero_le 256)
    exact ⟨0, fun h => absurd h hneeded, fun _ => rfl, hempty hneeded ▸ hdigits⟩

/-- Only a stream that is needed has a nonzero digit. -/
theorem DigitStream.Encodes.needed_of_at_ne_zero {i : Nat} (hi : d.at i ≠ 0) : needed := by
  obtain ⟨-, hempty⟩ := h
  by_contra hneeded
  rw [hempty hneeded] at hi
  exact hi (DigitStream.at_of_count_le (Nat.zero_le i))

end

section
variable {d : DigitStream} {v : Int} {w : Nat} (h : WnafDigits v w 256 d.digit d.count)
include h

theorem WnafDigits.count_le : d.count ≤ 256 := by
  rcases h.countIsTop with ⟨hzero, -⟩ | ⟨i, -, hcount, -⟩ <;> omega

/-- The digit at a position is the buffer's, because the buffer holds no digit at or above the count. -/
theorem WnafDigits.at_val (i : Fin 256) : d.at i = d.digit[i] := by
  unfold DigitStream.at
  split
  · simp [Vector.getD, Array.getD]
  next hge =>
    rcases h.countIsTop with ⟨-, hzero⟩ | ⟨top, -, hcount, habove⟩
    · exact (hzero i).symm
    · exact (habove i (Fin.lt_def.2 (by omega))).symm

theorem WnafDigits.at_eq_getD (i : Nat) : d.at i = d.digit.toArray.getD i 0 := by
  by_cases hi : i < 256
  · exact (h.at_val ⟨i, hi⟩).trans (by simp [Array.getD, hi])
  · rw [DigitStream.at_of_count_le (h.count_le.trans (not_lt.1 hi))]
    simp [Array.getD, hi]

/-- A digit of window width `w` names an entry of a table of `2^(w - 2)` entries (R89, R242). -/
theorem WnafDigits.namesEntries {len : Nat} (hlen : 2 * len = 2 ^ (w - 1)) : d.NamesEntries len := by
  intro i hi
  obtain ⟨j, rfl⟩ : ∃ j : Fin 256, j.val = i :=
    ⟨⟨i, not_le.1 fun hle => hi (DigitStream.at_of_count_le (h.count_le.trans hle))⟩, rfl⟩
  have hrange := h.oddInRange j
  rw [← h.at_val] at hrange
  obtain ⟨hodd, hlow, hhigh⟩ := hrange hi
  have hhalf : (2 : Int) ^ (w - 1) = 2 * len := by exact_mod_cast hlen.symm
  exact ⟨⟨((d.at j).natAbs - 1) / 2, by omega⟩, by dsimp only; omega⟩

end

theorem streamG_eq (ng : Sc) : ∃ wg, streamG ng = .ok wg ∧ wg.Encodes (ng.val ≠ 0) ng 16 := by
  by_cases hng : ng.val = 0
  · exact ⟨_, if_pos hng, absurd hng, fun _ => rfl⟩
  · obtain ⟨wg, hwg⟩ := exists_wnafEncode_of_lt (w := 16) (by decide) le_rfl (wnafAbs_lt ng)
    exact ⟨wg, (if_neg hng).trans hwg, fun _ => hwg, absurd hng⟩

/-! ### The odd multiples of `A` (45_dual_mul.md R306) -/

/-- One of the eight odd multiples of `A` has no affine form (R306, 60_exceptions.md R333). -/
def HasBadMultiple (a : Ge) : Prop := ∃ i < 8, (oddMultiple a i).inf = false ∧ (oddMultiple a i).z.val = 0

/-- The odd multiples of `A` are needed (R310). -/
def NeedsMultiples (a : Ge) (na : Sc) : Prop := a.inf = false ∧ na.val ≠ 0

/-- An addition chain lists any sequence in which each value is the sum of the one before and the step. -/
theorem addChain_eq_map (step : Gej) (sums : Nat → Gej) (hsums : ∀ i, sums (i + 1) = (gejAdd (sums i) step).1)
    (count first : Nat) : addChain step count (sums first) = (List.range' first count).map sums := by
  induction count generalizing first with
  | zero => rfl
  | succ count ih => rw [addChain, ← hsums, ih, List.range'_succ, List.map_cons]

theorem addChain_oddMultiple (a : Ge) :
    addChain (gejDouble ⟨a.x, a.y, feOfNat 1, false⟩).1 8 ⟨a.x, a.y, feOfNat 1, false⟩ =
      (List.range 8).map (oddMultiple a) := by
  rw [List.range_eq_range']
  exact addChain_eq_map _ (oddMultiple a) (fun _ => rfl) 8 0

section
variable {a : Ge}

theorem oddMultiples8_of_bad (h : HasBadMultiple a) : oddMultiples8 a = .error .zero := by
  rw [oddMultiples8, if_pos]
  simpa [addChain_oddMultiple, needsZeroInverse_iff, HasBadMultiple] using h

theorem oddMultiples8_of_not_bad (h : ¬ HasBadMultiple a) :
    ∃ t, oddMultiples8 a = .ok t ∧ ∀ idx : Fin 8, t[idx] = affineOf (oddMultiple a idx) := by
  refine ⟨_, if_neg ?_, fun idx => ?_⟩
  · simpa [addChain_oddMultiple, needsZeroInverse_iff, HasBadMultiple] using h
  · simp [addChain_oddMultiple]

theorem streamA_of_bad {na : Sc} (hneeds : NeedsMultiples a na) (hbad : HasBadMultiple a) :
    streamA a na = .error .zero := by
  obtain ⟨wa, hwa⟩ := exists_wnafEncode_of_lt (w := 5) (by decide) le_rfl (wnafAbs_lt na)
  obtain ⟨hinf, hna⟩ := hneeds
  simp [streamA, hinf, hna, Config.windowA, hwa, oddMultiples8_of_bad hbad]

theorem streamA_of_not_bad {na : Sc} (h : ¬ (NeedsMultiples a na ∧ HasBadMultiple a)) :
    ∃ sa, streamA a na = .ok sa ∧ sa.digits.Encodes (NeedsMultiples a na) na 5 ∧
      (NeedsMultiples a na → ∀ idx : Fin 8, sa.table[idx] = affineOf (oddMultiple a idx)) := by
  by_cases hneeds : NeedsMultiples a na
  · obtain ⟨wa, hwa⟩ := exists_wnafEncode_of_lt (w := 5) (by decide) le_rfl (wnafAbs_lt na)
    obtain ⟨t, ht, hentry⟩ := oddMultiples8_of_not_bad fun hbad => h ⟨hneeds, hbad⟩
    refine ⟨⟨wa, t⟩, ?_, ⟨fun _ => hwa, absurd hneeds⟩, fun _ => hentry⟩
    obtain ⟨hinf, hna⟩ := hneeds
    simp [streamA, hinf, hna, Config.windowA, hwa, ht]
  · refine ⟨_, if_pos ?_, ⟨fun hn => absurd hn hneeds, fun _ => rfl⟩, fun hn => absurd hn hneeds⟩
    simpa [NeedsMultiples, imp_iff_not_or] using hneeds

end

/-! ### The pass over the streams (45_dual_mul.md R310) -/

/-- The pass from the value `r`: the positions `count - 1` down to 0 of `dualSum`. -/
def dualPass (entryA entryG : Nat → Ge) (digitA digitG : Nat → Int) (count : Nat) (r : Gej) : Gej :=
  (List.range count).reverse.foldl
    (fun r i => addOddMultiple entryG (digitG i) (addOddMultiple entryA (digitA i) (gejDouble r).1)) r

theorem dualSum_eq_dualPass (entryA entryG : Nat → Ge) (digitA digitG : Nat → Int) (bits : Nat) :
    dualSum entryA entryG digitA digitG bits = dualPass entryA entryG digitA digitG bits JINF := rfl

@[simp] theorem dualPass_zero (entryA entryG : Nat → Ge) (digitA digitG : Nat → Int) (r : Gej) :
    dualPass entryA entryG digitA digitG 0 r = r := rfl

theorem dualPass_succ (entryA entryG : Nat → Ge) (digitA digitG : Nat → Int) (i : Nat) (r : Gej) :
    dualPass entryA entryG digitA digitG (i + 1) r = dualPass entryA entryG digitA digitG i
      (addOddMultiple entryG (digitG i) (addOddMultiple entryA (digitA i) (gejDouble r).1)) := by
  rw [dualPass, List.range_succ, List.reverse_concat, List.foldl_cons, dualPass]

/-- Adding the entry a digit names is adding its signed odd lookup. -/
theorem addOddMultiple_eq {entry : Nat → Ge} {len : Nat} {d : Int} {idx : Fin len} (hidx : 2 * idx.val + 1 = d.natAbs)
    (hinf : (entry idx).inf = true → entry idx = AINF) (r : Gej) :
    addOddMultiple entry d r = gejAddGe r (oddSigned d (entry idx)) := by
  have hd : d ≠ 0 := by omega
  rw [addOddMultiple, if_neg hd, show (d.natAbs - 1) / 2 = idx.val by omega, oddSigned_eq d _ hd hinf]

theorem affineOf_eq_ainf {a : Gej} (h : (affineOf a).inf = true) : affineOf a = AINF := by
  unfold affineOf geOfGejZinv at h ⊢
  split at h
  · exact if_pos ‹_›
  · exact absurd h Bool.false_ne_true

/-- The entry of the multiply table that an odd digit names, by its number. -/
def tableEntry (t : MulTable) (i : Nat) : Ge := geOfSt (t.toArray.getD i ⟨feOfNat 0, feOfNat 0⟩)

theorem tableEntry_val (t : MulTable) (idx : Fin 16384) : tableEntry t idx = geOfSt (t.read idx) := by
  simp [tableEntry, MulTable.read, Array.getD]

/-- The entry of the table of `A` that an odd digit names, by its number. -/
def multipleEntry (a : Ge) (i : Nat) : Ge := affineOf (oddMultiple a i)

theorem addDigitA_eq {sa : TableStream 8} {a : Ge} {i : Nat} (hnames : sa.digits.NamesEntries 8)
    (htable : sa.digits.at i ≠ 0 → ∀ idx : Fin 8, sa.table[idx] = multipleEntry a idx) (r : Gej) :
    addDigitA sa i r = .ok (addOddMultiple (multipleEntry a) (sa.digits.at i) r) := by
  by_cases hd : sa.digits.at i = 0
  · rw [addDigitA, if_pos hd, addOddMultiple, if_pos hd]
  · obtain ⟨idx, hidx⟩ := hnames i hd
    rw [addOddMultiple_eq hidx affineOf_eq_ainf, ← htable hd idx, addDigitA, if_neg hd,
      (oddIndex_ok_iff ..).2 hidx]

theorem addDigitG_eq {t : MulTable} {g : DigitStream} (hnames : g.NamesEntries 16384) (i : Nat) (r : Gej) :
    ∃ reads, addDigitG t g i r = .ok (addOddMultiple (tableEntry t) (g.at i) r, reads) := by
  by_cases hd : g.at i = 0
  · exact ⟨[], by rw [addDigitG, if_pos hd, addOddMultiple, if_pos hd]⟩
  · obtain ⟨idx, hidx⟩ := hnames i hd
    refine ⟨[.mul idx], ?_⟩
    rw [addOddMultiple_eq hidx fun h => absurd h Bool.false_ne_true, tableEntry_val, addDigitG, if_neg hd,
      (oddIndex_ok_iff ..).2 hidx]

/-- The loop takes the pass over the digits of both streams. -/
theorem dualLoop_eq {t : MulTable} {sa : TableStream 8} {g : DigitStream} {a : Ge} (hA : sa.digits.NamesEntries 8)
    (htable : ∀ i, sa.digits.at i ≠ 0 → ∀ idx : Fin 8, sa.table[idx] = multipleEntry a idx)
    (hG : g.NamesEntries 16384) (count : Nat) (r : Gej) :
    ∃ reads, dualLoop t sa g count r =
      .ok (dualPass (multipleEntry a) (tableEntry t) sa.digits.at g.at count r, reads) := by
  induction count generalizing r with
  | zero => exact ⟨[], rfl⟩
  | succ i ih =>
    rw [dualPass_succ, dualLoop, addDigitA_eq hA (htable i)]
    generalize addOddMultiple (multipleEntry a) (sa.digits.at i) (gejDouble r).1 = r1
    obtain ⟨reads, hadd⟩ := addDigitG_eq (t := t) hG i r1
    obtain ⟨reads', hrest⟩ := ih (addOddMultiple (tableEntry t) (g.at i) r1)
    exact ⟨reads ++ reads', by simp only [hadd, hrest]⟩

/-- The pass of R310 for `A` over two digit streams. -/
def dualResult (t : MulTable) (a : Ge) (wa wg : DigitStream) : Gej :=
  dualSum (multipleEntry a) (tableEntry t) wa.at wg.at (max wa.count wg.count)

theorem dualMulCore_of_bad (t : MulTable) {a : Ge} {na : Sc} (ng : Sc) (hneeds : NeedsMultiples a na)
    (hbad : HasBadMultiple a) : dualMulCore t a na ng = .error .zero := by
  rw [dualMulCore, streamA_of_bad hneeds hbad]

theorem dualMulCore_of_not_bad (t : MulTable) {a : Ge} {na : Sc} (ng : Sc)
    (h : ¬ (NeedsMultiples a na ∧ HasBadMultiple a)) :
    ∃ wa wg reads, wa.Encodes (NeedsMultiples a na) na 5 ∧ wg.Encodes (ng.val ≠ 0) ng 16 ∧
      dualMulCore t a na ng = .ok (dualResult t a wa wg, reads) := by
  obtain ⟨sa, hsa, hwa, htable⟩ := streamA_of_not_bad h
  obtain ⟨wg, hsg, hwg⟩ := streamG_eq ng
  obtain ⟨va, -, -, hda⟩ := hwa.wnafDigits (by decide)
  obtain ⟨vg, -, -, hdg⟩ := hwg.wnafDigits (by decide)
  obtain ⟨reads, hloop⟩ := dualLoop_eq (t := t) (hda.namesEntries (by decide))
    (fun i hi => htable (hwa.needed_of_at_ne_zero hi)) (hdg.namesEntries (by decide))
    (max sa.digits.count wg.count) JINF
  exact ⟨sa.digits, wg, reads, hwa, hwg, by simp only [dualMulCore, hsa, hsg, hloop, dualResult, dualSum_eq_dualPass]⟩

/-! ### The command (45_dual_mul.md R310) -/

theorem hasWord_dualMul (rd : JSel) (ra : ASel) (rb rc : SSel) (cx : MSlot) : HasWord (.dualMul rd ra rb rc cx)
    (0x64 + 0x100 * rd + 0x1000 * ra + 0x10000 * rb + 0x100000 * rc + 0x40000000 * cx) := by
  refine hasWord_of_toNat_encode rfl ?_
  have hcx := slot_lt cx
  rw [encode, wordR, BitVec.toNat_ofNat, show (Instr.dualMul rd ra rb rc cx).opcode.toNat = 0x64 from rfl]
  omega

section
variable {s : State} {cx : MSlot} {table : MulTable} (h : s.mctx[cx].preG = some table) (rd : JSel) {ra : ASel}
  {rb rc : SSel}
include h

theorem exec_dualMul_of_bad (hneeds : NeedsMultiples (s.readA ra) (s.readS rb)) (hbad : HasBadMultiple (s.readA ra)) :
    exec (.dualMul rd ra rb rc cx) s = finish (.dualMul rd ra rb rc cx) s Trace.none (.error .zero) := by
  simp only [exec, execDualMul, (MulCtx.table_ok_iff _ _).2 h, dualMulCore_of_bad table (s.readS rc) hneeds hbad]

theorem exec_dualMul_of_not_bad (hbad : ¬ (NeedsMultiples (s.readA ra) (s.readS rb) ∧ HasBadMultiple (s.readA ra))) :
    ∃ wa wg reads, wa.Encodes (NeedsMultiples (s.readA ra) (s.readS rb)) (s.readS rb) 5 ∧
      wg.Encodes ((s.readS rc).val ≠ 0) (s.readS rc) 16 ∧
      exec (.dualMul rd ra rb rc cx) s = finish (.dualMul rd ra rb rc cx) s ⟨0, reads⟩
        (.ok (s.writeJ rd (dualResult table (s.readA ra) wa wg))) := by
  obtain ⟨wa, wg, reads, hwa, hwg, hcore⟩ := dualMulCore_of_not_bad table (s.readS rc) hbad
  exact ⟨wa, wg, reads, hwa, hwg, by simp only [exec, execDualMul, (MulCtx.table_ok_iff _ _).2 h, hcore]⟩

end

/-- Settles O56: with the odd multiples in order both streams encode, and each digit names an entry of its table, so
the loop takes the pass. -/
theorem dualMulPass : Obligations.DualMulPass := by
  unfold Obligations.DualMulPass
  intro s rd ra rb rc cx a na ng needsA badA
  refine ⟨hasWord_dualMul rd ra rb rc cx, fun table h => ⟨fun ⟨hneeds, hbad⟩ => ?_, fun hbad => ?_⟩⟩
  · exact raisesFault_of_error (exec_dualMul_of_bad h rd hneeds hbad)
  · obtain ⟨wa, wg, reads, hwa, hwg, hexec⟩ := exec_dualMul_of_not_bad h rd hbad
    obtain ⟨va, -, -, hda⟩ := hwa.wnafDigits (by decide)
    obtain ⟨vg, -, -, hdg⟩ := hwg.wnafDigits (by decide)
    rw [dualResult, funext hda.at_eq_getD, funext hdg.at_eq_getD] at hexec
    obtain ⟨hencodeA, hemptyA⟩ := hwa
    obtain ⟨hencodeG, hemptyG⟩ := hwg
    exact ⟨wa, wg, hencodeA, hemptyA, hencodeG, fun hzero => hemptyG (not_not.2 hzero),
      completes_of_ok hexec rfl rfl rfl⟩

end Sys2Proof.Machine
end

section
/-! PROOFS. The group of the curve has `n` points (00_scope.md R9), so that every point's multiples may be taken mod `n`:
it holds at most `2·p + 1 < 3·n` points, the order of the base point divides their number, and none has order 2. -/

namespace Sys2Proof.Machine

section
variable [Fact (Nat.Prime Config.p)]

/-- A finite point by its `x` and the parity of its `y`; the identity by none. -/
def compress : Point → Option (ZMod Config.p × Bool)
  | .zero => none
  | .some x y _ => some (x, y.val % 2 = 1)

/-- Opposite values have opposite parity, because `p` is odd. -/
theorem parity_neg_ne {y : ZMod Config.p} (hy : y ≠ 0) : (-y).val % 2 ≠ y.val % 2 := by
  have hodd : Config.p % 2 = 1 := by decide
  have hlt := ZMod.val_lt y
  have : NeZero y := ⟨hy⟩
  rw [ZMod.val_neg_of_ne_zero]
  omega

theorem compress_injective : Function.Injective compress := by
  rintro (_ | ⟨x₁, y₁, h₁⟩) (_ | ⟨x₂, y₂, h₂⟩) h
  · rfl
  · simp [compress] at h
  · simp [compress] at h
  · simp only [compress, Option.some.injEq, Prod.mk.injEq, decide_eq_decide] at h
    obtain ⟨rfl, hparity⟩ := h
    rcases y_eq_or_neg h₁.1 h₂.1 with rfl | rfl
    · rfl
    · have hne := parity_neg_ne (y_ne_zero h₂.1)
      omega

theorem finite_point : Finite Point := Finite.of_injective compress compress_injective

theorem card_point_le : Nat.card Point ≤ 2 * Config.p + 1 := by
  have hcard := Nat.card_le_card_of_injective compress compress_injective
  rwa [Finite.card_option, Nat.card_prod, Nat.card_zmod, Nat.card_eq_fintype_card (α := Bool), Fintype.card_bool,
    mul_comm] at hcard

/-- The only point that is its own negative is the identity. -/
theorem eq_zero_of_add_self {P : Point} (h : P + P = 0) : P = 0 := by
  cases P with
  | zero => rfl
  | some x y hns =>
    rw [add_eq_zero_iff_eq_neg, WeierstrassCurve.Affine.Point.neg_some, WeierstrassCurve.Affine.Point.some.injEq,
      curve_negY, eq_neg_iff_add_eq_zero, ← two_mul] at h
    exact absurd h.2 (mul_ne_zero two_ne_zero_mod_p (y_ne_zero hns.1))

/-- The number of points is odd, because a group of even order has an element of order 2. -/
theorem card_point_odd : ¬ 2 ∣ Nat.card Point := by
  intro heven
  have := finite_point
  obtain ⟨P, hP⟩ := exists_prime_addOrderOf_dvd_card' 2 heven
  have hzero : P = 0 := eq_zero_of_add_self (by rw [← two_nsmul, ← hP, addOrderOf_nsmul_eq_zero])
  rw [hzero, addOrderOf_zero] at hP
  omega

theorem addOrderOf_basePoint {G : Point} (hG : basePoint.StandsFor G) : addOrderOf G = Config.n := by
  have : Fact (Nat.Prime Config.n) := ⟨n_prime⟩
  have hG0 := smul_basePoint_ne_zero hG (k := scOfNat 1) (by decide)
  exact addOrderOf_eq_prime (n_smul_basePoint hG) fun h => hG0 (by rw [h, nsmul_zero])

/-- The curve has `n` points (00_scope.md R9). -/
theorem card_point : Nat.card Point = Config.n := by
  have := finite_point
  obtain ⟨G, hG⟩ := exists_basePoint
  obtain ⟨k, hk⟩ := addOrderOf_basePoint hG ▸ addOrderOf_dvd_natCard G
  have hle := card_point_le
  have hodd := card_point_odd
  have hpos : 0 < Nat.card Point := Nat.card_pos
  have hbound : 2 * Config.p + 1 < 3 * Config.n := by decide
  have hk3 : k < 3 := lt_of_mul_lt_mul_left (a := Config.n) (by rw [← hk]; omega) (Nat.zero_le _)
  rw [hk] at hodd hpos ⊢
  interval_cases k
  · exact absurd hpos (lt_irrefl 0)
  · exact mul_one _
  · exact absurd (dvd_mul_left 2 _) hodd

/-- The multiples of a point may be taken mod `n`. -/
theorem smul_eq_of_emod {u v : Int} (h : (u - v) % Config.n = 0) (P : Point) : u • P = v • P := by
  have horder : (addOrderOf P : Int) ∣ u - v := by
    have hdvd : addOrderOf P ∣ Config.n := card_point ▸ addOrderOf_dvd_natCard P
    exact (Int.natCast_dvd_natCast.2 hdvd).trans (Int.dvd_of_emod_eq_zero h)
  exact (zsmul_eq_zsmul_iff_modEq.2 (Int.modEq_iff_dvd.2 horder)).symm

end

end Sys2Proof.Machine
end

section
/-! PROOFS. The contracts of the signed odd lookup and the dual multiplier (45_dual_mul.md R302, R305, R306, R310): their
tables hold odd multiples, a digit adds its multiple of the point, and the digits of a stream sum to its scalar. -/

namespace Sys2Proof.Machine

/-! ### Affine values and the points they stand for (40_group_convert.md R160, R162) -/

/-- A value reads back as one that stands for the same point. -/
theorem Ge.StandsFor.readBack {a : Ge} {P : Point} (h : a.StandsFor P) : (geOfReg (geToReg a)).StandsFor P := by
  rw [geOfReg_geToReg]
  split
  · exact h.eq_zero ‹_› ▸ .inl ⟨rfl, rfl⟩
  · exact h

/-- A command that ends with a value written to `A[rd]` leaves there what stands for the value's point. -/
theorem readA_standsFor_of_ok {i : Instr} {s u : State} {tr : Trace} {rd : ASel} {v : Ge} {P : Point}
    (h : exec i s = finish i s tr (.ok u)) (hu : u.aReg[rd] = geToReg v) (hv : v.StandsFor P) :
    ∃ t, exec i s = .next t ∧ (t.readA rd).StandsFor P := by
  refine ⟨_, h.trans (finish_ok ..), ?_⟩
  rw [State.readA_recordLeak, State.readA, hu]
  exact hv.readBack

section
variable [Fact (Nat.Prime Config.p)]

/-- The affine form of a value stands for its point. -/
theorem affineOf_standsFor {a : Gej} {P : Point} (h : a.StandsFor P) : (affineOf a).StandsFor P := by
  cases hinf : a.inf with
  | true =>
    rw [(Gej.standsFor_zero hinf).1 h, affineOf, geOfGejZinv, if_pos hinf]
    exact .inl ⟨rfl, rfl⟩
  | false =>
    have hform : affineOf a = geOfSt (storageOf a) := by simp [affineOf, geOfGejZinv, hinf, geOfSt, storageOf]
    exact hform ▸ storageOf_standsFor hinf h

theorem geNeg_standsFor {a : Ge} {P : Point} (h : a.StandsFor P) : (geNeg a).StandsFor (-P) := by
  cases hinf : a.inf with
  | true =>
    rw [h.eq_zero hinf, neg_zero, geNeg, if_pos hinf]
    exact .inl ⟨rfl, rfl⟩
  | false =>
    obtain ⟨hns, rfl⟩ := h.exists_some hinf
    rw [geNeg, if_neg (by simp [hinf]), WeierstrassCurve.Affine.Point.neg_some]
    exact .inr ⟨rfl, _, _, _, rfl, rfl, by rw [curve_negY, fneg_cast]⟩

/-- The entry an odd digit names, with the digit's sign, is the digit's multiple (20_memory.md R89). -/
theorem signed_standsFor {e : Ge} {P : Point} {d : Int} (h : e.StandsFor (d.natAbs • P)) :
    (if d < 0 then geNeg e else e).StandsFor (d • P) := by
  split
  next hneg =>
    have hvalue : d • P = -(d.natAbs • P) := by
      rw [← natCast_zsmul, ← neg_zsmul, Int.ofNat_natAbs_of_nonpos hneg.le, neg_neg]
    exact hvalue ▸ geNeg_standsFor h
  next hpos => rwa [← natCast_zsmul, Int.natAbs_of_nonneg (not_lt.1 hpos)] at h

/-! ### The tables of odd multiples (45_dual_mul.md R302, R306) -/

/-- The step from one odd multiple of `P` to the next is its double. -/
theorem add_smul_double (P : Point) (i : Nat) : P + i • (P + P) = (2 * i + 1) • P := by
  rw [← two_nsmul, ← mul_nsmul, add_nsmul, one_nsmul, add_comm]

theorem oddMultiple_standsFor {a : Ge} {A : Point} (hinf : a.inf = false) (h : a.StandsFor A) (i : Nat) :
    (oddMultiple a i).StandsFor ((2 * i + 1) • A) := by
  have hfirst : (oddMultiple a 0).StandsFor A := by
    simpa [oddMultiple, gejOfGe, hinf] using gejOfGe_standsFor h
  rw [← add_smul_double]
  induction i with
  | zero => simpa using hfirst
  | succ i ih =>
    have hsum := gejAdd_standsFor ih (gejDouble_standsFor hfirst)
    rwa [add_assoc, ← succ_nsmul] at hsum

/-- A point of the curve has no odd multiple with `z = 0`. -/
theorem not_hasBadMultiple {a : Ge} {A : Point} (hinf : a.inf = false) (h : a.StandsFor A) : ¬ HasBadMultiple a := by
  rintro ⟨i, -, hfinite, hz⟩
  obtain ⟨hz', -⟩ := (oddMultiple_standsFor hinf h i).exists_some hfinite
  exact hz' ((Fe.cast_eq_zero _).2 hz)

/-- Entry `i` of the multiply table stands for `(2·i + 1)·G`: no odd multiple below `2^15` is the identity
(R302). -/
theorem mulTable_standsFor {G : Point} (hG : basePoint.StandsFor G) (idx : Fin 16384) :
    (geOfSt (mulTable.read idx)).StandsFor ((2 * idx.val + 1) • G) := by
  have hbase := gejOfGe_standsFor hG
  have hentry := addChain_standsFor (gejDouble_standsFor hbase) hbase 16384 idx.val idx.isLt
  rw [add_smul_double] at hentry
  have hbound : 2 * 16384 < Config.n := by decide
  have hfinite := hentry.finite (smul_basePoint_ne_zero hG (k := ⟨2 * idx.val + 1, by omega⟩) (Nat.succ_ne_zero _))
  simpa [mulTable, MulTable.read, chainTable] using storageOf_standsFor hfinite hentry

/-! ### The pass (45_dual_mul.md R310) -/

/-- Each nonzero digit of the sequence names an entry that is its magnitude's multiple of `P`. -/
def NamesMultiples (entry : Nat → Ge) (digit : Nat → Int) (P : Point) : Prop :=
  ∀ i, digit i ≠ 0 → (entry (((digit i).natAbs - 1) / 2)).StandsFor ((digit i).natAbs • P)

theorem addOddMultiple_standsFor {entry : Nat → Ge} {digit : Nat → Int} {P R : Point} {r : Gej}
    (h : NamesMultiples entry digit P) (hr : r.StandsFor R) (i : Nat) :
    (addOddMultiple entry (digit i) r).StandsFor (R + digit i • P) := by
  unfold addOddMultiple
  split
  next hzero => rwa [hzero, zero_zsmul, add_zero]
  next hd => exact gejAddGe_standsFor hr (signed_standsFor (h i hd))

/-- The pass doubles its start once per position, and adds each digit's multiple at the weight of its position. -/
theorem dualPass_standsFor {entryA entryG : Nat → Ge} {digitA digitG : Nat → Int} {A G R : Point} {r : Gej}
    (hA : NamesMultiples entryA digitA A) (hG : NamesMultiples entryG digitG G) (hr : r.StandsFor R) (count : Nat) :
    (dualPass entryA entryG digitA digitG count r).StandsFor (2 ^ count • R +
      ((∑ i ∈ Finset.range count, digitA i * 2 ^ i) • A + (∑ i ∈ Finset.range count, digitG i * 2 ^ i) • G)) := by
  induction count generalizing r R with
  | zero => simpa using hr
  | succ i ih =>
    have hpass := ih (addOddMultiple_standsFor hG (addOddMultiple_standsFor hA (gejDouble_standsFor hr) i) i)
    rw [dualPass_succ]
    convert hpass using 1
    simp only [Finset.sum_range_succ, pow_succ, ← natCast_zsmul]
    push_cast
    module

/-- The digits sum to their value mod `n`, over any range of positions that reaches the last of them. -/
theorem sum_digits_smul {d : DigitStream} {v : Int} {w bits : Nat} (h : WnafDigits v w 256 d.digit d.count)
    (hbits : d.count ≤ bits) (P : Point) : (∑ i ∈ Finset.range bits, d.at i * 2 ^ i) • P = v • P := by
  have hzero : ∀ i ≥ d.count, d.at i * 2 ^ i = 0 := fun i hi => by rw [DigitStream.at_of_count_le hi, zero_mul]
  have hbuffer : ∑ i ∈ Finset.range 256, d.at i * 2 ^ i = ∑ i : Fin 256, d.digit[i] * 2 ^ i.val := by
    simp only [← Fin.sum_univ_eq_sum_range (fun i => d.at i * 2 ^ i), h.at_val]
  rw [Finset.eventually_constant_sum hzero hbits, ← Finset.eventually_constant_sum hzero h.count_le, hbuffer]
  exact smul_eq_of_emod h.congruent P

section
variable {d : DigitStream} {needed : Prop} {a : Sc} {w : Nat} (h : d.Encodes needed a w) (hw : 2 ≤ w) {P : Point}
include h hw

/-- The digits of a stream sum to its scalar's multiple of a point, if a scalar not encoded would add nothing. -/
theorem DigitStream.Encodes.sum_smul {bits : Nat} (hbits : d.count ≤ bits) (hzero : ¬ needed → a.val • P = 0) :
    (∑ i ∈ Finset.range bits, d.at i * 2 ^ i) • P = a.val • P := by
  obtain ⟨v, hneeded, hempty, hdigits⟩ := h.wnafDigits hw
  rw [sum_digits_smul hdigits hbits]
  by_cases hn : needed
  · rw [hneeded hn, natCast_zsmul]
  · rw [hempty hn, zero_zsmul, hzero hn]

/-- The digits of a stream name multiples of `P` in a table of the odd multiples of `P`. -/
theorem DigitStream.Encodes.namesMultiples {len : Nat} {entry : Nat → Ge} (hlen : 2 * len = 2 ^ (w - 1))
    (hentry : needed → ∀ idx : Fin len, (entry idx).StandsFor ((2 * idx.val + 1) • P)) :
    NamesMultiples entry d.at P := by
  intro i hi
  obtain ⟨v, -, -, hdigits⟩ := h.wnafDigits hw
  obtain ⟨idx, hidx⟩ := hdigits.namesEntries hlen i hi
  rw [← hidx, show (2 * idx.val + 1 - 1) / 2 = idx.val by omega]
  exact hentry (h.needed_of_at_ne_zero hi) idx

end

/-- The pass over the two encodings gives `na·A + ng·G`. -/
theorem dualResult_standsFor {a : Ge} {A G : Point} {na ng : Sc} {wa wg : DigitStream} (hA : a.StandsFor A)
    (hG : basePoint.StandsFor G) (hwa : wa.Encodes (NeedsMultiples a na) na 5) (hwg : wg.Encodes (ng.val ≠ 0) ng 16) :
    (dualResult mulTable a wa wg).StandsFor (na.val • A + ng.val • G) := by
  have hmultiples : NamesMultiples (multipleEntry a) wa.at A :=
    hwa.namesMultiples (by decide) (len := 8) (by decide) fun ⟨hinf, _⟩ idx =>
      affineOf_standsFor (oddMultiple_standsFor hinf hA idx)
  have htable : NamesMultiples (tableEntry mulTable) wg.at G :=
    hwg.namesMultiples (by decide) (by decide) fun _ idx => tableEntry_val mulTable idx ▸ mulTable_standsFor hG idx
  have hzeroA : ¬ NeedsMultiples a na → na.val • A = 0 := fun hneeds => by
    cases hinf : a.inf with
    | true => rw [hA.eq_zero hinf, nsmul_zero]
    | false => rw [not_not.1 fun hna => hneeds ⟨hinf, hna⟩, zero_nsmul]
  have hzeroG : ¬ ng.val ≠ 0 → ng.val • G = 0 := fun hng => by rw [not_not.1 hng, zero_nsmul]
  have hpass := dualPass_standsFor hmultiples htable jinf_standsFor (max wa.count wg.count)
  rwa [nsmul_zero, zero_add, hwa.sum_smul (by decide) (le_max_left ..) hzeroA,
    hwg.sum_smul (by decide) (le_max_right ..) hzeroG, ← dualSum_eq_dualPass] at hpass

end

/-! ### The commands (45_dual_mul.md R305, R310) -/

/-- Settles O57: the signed entry of the table of R302 is the immediate's multiple of `G`. -/
theorem lookupIsOddMultipleOfG : Obligations.LookupIsOddMultipleOfG := by
  unfold Obligations.LookupIsOddMultipleOfG
  intro _ s rd simm16 cx G hG hbuilt hodd
  have hrange : simm16.toInt.natAbs ≤ 2 ^ 15 := by
    have := BitVec.le_toInt simm16
    have := BitVec.toInt_lt (x := simm16)
    omega
  obtain ⟨idx, hidx⟩ : ∃ idx : Fin 16384, 2 * idx.val + 1 = simm16.toInt.natAbs :=
    ⟨⟨(simm16.toInt.natAbs - 1) / 2, by omega⟩, by dsimp only; omega⟩
  have hentry := mulTable_standsFor hG idx
  rw [hidx] at hentry
  have hd : simm16.toInt ≠ 0 := by omega
  have hvalue := oddSigned_geOfSt hd (mulTable.read idx) ▸ signed_standsFor hentry
  exact readA_standsFor_of_ok (exec_pregLookup_odd rd hbuilt hidx) (by simp) hvalue

/-- Settles O58: a point of the curve has its odd multiples, so the command completes with the pass over the two
encodings. -/
theorem dualMulIsCombination : Obligations.DualMulIsCombination := by
  unfold Obligations.DualMulIsCombination
  intro _ s rd ra rb rc cx G A hG hA hbuilt
  obtain ⟨wa, wg, reads, hwa, hwg, hexec⟩ := exec_dualMul_of_not_bad (rb := rb) (rc := rc) hbuilt rd
    fun ⟨⟨hinf, _⟩, hbad⟩ => not_hasBadMultiple hinf hA hbad
  exact readJ_standsFor_of_ok hexec (by simp) (dualResult_standsFor hA hG hwa hwg)

end Sys2Proof.Machine
end

section
/-! PROOFS. The faults (60_exceptions.md): what the fault state keeps, what a fault entry writes, and which faults each
command raises. -/

namespace Sys2Proof.Machine

/-! ### The fault state (60_exceptions.md R341) -/

/-- In the fault state a step that is no reset takes the access, answers it and does nothing else. -/
theorem step_inFault {s t : State} (hf : s.fault = true) (h : step s = .next t) (hreset : ¬ ResetComesNext s) :
    ∃ host response, t = { s with host := host, response := response } := by
  rcases step_cases h with ⟨-, rfl⟩ | ⟨a, rest, hhost, hread | hwrite | ⟨rfl, -⟩⟩
  · exact ⟨_, _, rfl⟩
  · obtain ⟨width, offset, -, ⟨-, rfl⟩ | ⟨r, -, rfl⟩⟩ := hread <;> exact ⟨_, _, rfl⟩
  · obtain ⟨width, offset, w, rfl, ⟨-, rfl⟩ | ⟨-, hcmd⟩ | ⟨htarget, rfl⟩ | ⟨r, -, -, -, rfl⟩⟩ := hwrite
    · exact ⟨_, _, rfl⟩
    · have hignored := cmdWrite_inFault w { s with host := rest, response := .accepted } hf
      exact ⟨_, _, (Host.Outcome.next.inj (hignored.symm.trans hcmd)).symm⟩
    · obtain ⟨rfl, rfl⟩ := (target_eq_some_iff ..).1 htarget
      have hclear : lowBit w = false := Bool.eq_false_iff.2 fun hw => hreset ⟨rest, .inr ⟨w, hw, hhost⟩⟩
      rw [ctrlWrite, hclear]
      exact ⟨_, _, rfl⟩
    · rw [if_pos hf]
      exact ⟨_, _, rfl⟩
  · exact absurd ⟨rest, .inl hhost⟩ hreset

/-- Settles O9: in the fault state a step without a reset changes only the stream and the answer, so a step that clears
the fault is a reset. -/
theorem faultStateIsSticky : Obligations.FaultStateIsSticky := by
  unfold Obligations.FaultStateIsSticky
  refine ⟨fun s t hf h hreset => ?_, fun s r _ => reads_reg r rfl rfl, fun s t hf h hclear => ?_⟩
  · obtain ⟨host, response, rfl⟩ := step_inFault hf h hreset
    exact ⟨rfl, rfl⟩
  · have hreset : ResetComesNext s := by
      by_contra hno
      obtain ⟨host, response, rfl⟩ := step_inFault hf h hno
      exact absurd (hf.symm.trans hclear) (by decide)
    obtain ⟨rest, rfl⟩ := step_of_resetComesNext hreset h
    exact ⟨hreset, rfl⟩

/-! ### The fault entry (60_exceptions.md R340) -/

/-- A command whose leak names a fault leaves the fault entry of that fault. -/
theorem exec_faultEntry {i : Instr} {s t : State} {f : Fault} (h : exec i s = .next t) (hf : t.leakFault = some f) :
    t.arch = { s with fault := true, faultInfo := ⟨f.code, (encode i).extractLsb' 0 8⟩ }.arch := by
  rcases exec_cases h with ⟨ws, tr, -, rfl⟩ | ⟨f', tr, rfl⟩
  · simp at hf
  · obtain rfl : f' = f := by simpa using hf
    rw [State.arch_recordLeak, encode_lowByte]
    rfl

/-- A command whose leak names no fault leaves `STATUS.FAULT` and `FAULTINFO` alone. -/
theorem exec_noFault {i : Instr} {s t : State} (h : exec i s = .next t) (hf : t.leakFault = none) :
    t.fault = s.fault ∧ t.faultInfo = s.faultInfo := by
  rcases exec_cases h with ⟨ws, tr, -, rfl⟩ | ⟨f, tr, rfl⟩
  · rw [State.recordLeak_fault, State.recordLeak_faultInfo]
    exact applyAll_fault s ws
  · simp at hf

/-- Settles O11: a command takes a fault, or writes results that are not the fault's. -/
theorem faultEntryIsPrecise : Obligations.FaultEntryIsPrecise := by
  unfold Obligations.FaultEntryIsPrecise
  exact fun i s t h => ⟨fun f => exec_faultEntry h, exec_noFault h⟩

/-! ### The faults of each command (60_exceptions.md R345) -/

section
variable {i : Instr} {s t : State} {tr : Trace} (ht : exec i s = .next t)
include ht

theorem leakFault_of_ok {u : State} (h : exec i s = finish i s tr (.ok u)) : t.leakFault = none := by
  rw [← Host.Outcome.next.inj ((finish_ok i s u tr).symm.trans (h.symm.trans ht)), State.leakFault_recordLeak]

theorem leakFault_of_error {f : Fault} (h : exec i s = finish i s tr (.error f)) : t.leakFault = some f := by
  rw [← Host.Outcome.next.inj ((finish_error i s tr f).symm.trans (h.symm.trans ht)), State.leakFault_recordLeak]

end

/-- From the state `s` the command `i` ends with results, or with a fault of its row of R345. -/
def FaultsWithinRow (i : Instr) (s : State) : Prop :=
  (∃ tr u, exec i s = finish i s tr (.ok u)) ∨ ∃ tr f, exec i s = finish i s tr (.error f) ∧ f.code ∈ mayRaise i

section
variable {i : Instr} {s : State} {tr : Trace}

theorem faultsWithinRow_of_ok {u : State} (h : exec i s = finish i s tr (.ok u)) : FaultsWithinRow i s :=
  .inl ⟨tr, u, h⟩

theorem faultsWithinRow_of_error {f : Fault} (h : exec i s = finish i s tr (.error f))
    (hf : f.code ∈ mayRaise i := by simp [mayRaise, Fault.code]) : FaultsWithinRow i s :=
  .inr ⟨tr, f, h, hf⟩

/-- A command that ends with one test keeps to its row if the fault of the test is in it. -/
theorem faultsWithinRow_of_ite {c : Prop} [Decidable c] {f : Fault} {u : State}
    (h : exec i s = finish i s tr (if c then .error f else .ok u))
    (hf : f.code ∈ mayRaise i := by simp [mayRaise, Fault.code]) : FaultsWithinRow i s := by
  split at h
  · exact faultsWithinRow_of_error h hf
  · exact faultsWithinRow_of_ok h

end

theorem exec_wnaf_badParameters {s : State} {rd : WSel} {ra : SSel} {w : Fin 32} {len : Fin 512}
    (h : w.val < 2 ∨ 256 < len.val) :
    exec (.wnaf rd ra w len) s = finish (.wnaf rd ra w len) s Trace.none (.error .wnafParam) := by
  rw [exec, execWnaf, if_pos h]

/-- With good parameters `WNAF` completes or raises F_WNAF_RANGE (43_wnaf.md R241). -/
theorem exec_wnaf_cases {w : Fin 32} {len : Fin 512} (hw : 2 ≤ w.val) (hlen : len.val ≤ 256) (s : State) (rd : WSel)
    (ra : SSel) :
    (∃ u, exec (.wnaf rd ra w len) s = finish (.wnaf rd ra w len) s Trace.none (.ok u)) ∨
      exec (.wnaf rd ra w len) s = finish (.wnaf rd ra w len) s Trace.none (.error .wnafRange) := by
  rw [exec_wnaf hw hlen]
  rcases wnafEncode_cases (s.readS ra) w len with ⟨d, hd⟩ | hrange
  · exact .inl ⟨_, by rw [hd]; rfl⟩
  · exact .inr (by rw [hrange]; rfl)

theorem exec_pregLookup_unbuilt {s : State} {cx : MSlot} (rd : ASel) (simm16 : BitVec 16)
    (h : s.mctx[cx].preG = none) :
    exec (.pregLookup rd simm16 cx) s = finish (.pregLookup rd simm16 cx) s Trace.none (.error .notBuilt) := by
  simp only [exec, execPregLookup, (MulCtx.table_error_iff _ _).2 ⟨h, rfl⟩]

theorem exec_dualMul_unbuilt {s : State} {cx : MSlot} (rd : JSel) (ra : ASel) (rb rc : SSel)
    (h : s.mctx[cx].preG = none) :
    exec (.dualMul rd ra rb rc cx) s = finish (.dualMul rd ra rb rc cx) s Trace.none (.error .notBuilt) := by
  simp only [exec, execDualMul, (MulCtx.table_error_iff _ _).2 ⟨h, rfl⟩]

/-- The lookup on a built slot completes or raises F_INDEX (45_dual_mul.md R305). -/
theorem exec_pregLookup_cases {s : State} {cx : MSlot} {table : MulTable} (h : s.mctx[cx].preG = some table)
    (rd : ASel) (simm16 : BitVec 16) :
    (∃ tr u, exec (.pregLookup rd simm16 cx) s = finish (.pregLookup rd simm16 cx) s tr (.ok u)) ∨
      exec (.pregLookup rd simm16 cx) s = finish (.pregLookup rd simm16 cx) s Trace.none (.error .index) := by
  cases hidx : oddIndex 16384 simm16.toInt with
  | ok idx => exact .inl ⟨_, _, exec_pregLookup_odd rd h ((oddIndex_ok_iff ..).1 hidx)⟩
  | error f =>
    obtain rfl := oddIndex_error _ _ _ hidx
    exact .inr (by simp only [exec, execPregLookup, (MulCtx.table_ok_iff _ _).2 h, sext16, hidx])

/-- Every legal command keeps to its row. -/
theorem exec_faultsWithinRow {i : Instr} (hi : i.WellFormed) (s : State) : FaultsWithinRow i s := by
  cases i with
  | gejSetGe | geSetGejZinv | geNeg | gejNeg | geValid | geFromSt | stCmov | stCsel | gejDblVar | gejAddVar
  | gejAddGeVar | gejAddZinvVar | scAdd | scMul | scNeg | scIsEven | genBuild | genClone | genClear | mulBuild
  | mulClone | mulClear => exact faultsWithinRow_of_ok rfl
  | geSetGej rd ra => exact faultsWithinRow_of_ite (convertTo_eq s rd ra ▸ exec_geSetGej rd ra s)
  | geSetGejVar rd ra => exact faultsWithinRow_of_ite (convertTo_eq s rd ra ▸ exec_geSetGejVar rd ra s)
  | batchNorm rd ra count => exact faultsWithinRow_of_ite (exec_batchNorm s (of_decide_eq_true hi))
  | gejRescale rd ra rc => exact faultsWithinRow_of_ite (exec_gejRescale rd ra rc s)
  | geToSt rd ra => exact faultsWithinRow_of_ite (exec_geToSt rd ra s)
  | gejAddGe rd ra rb => exact faultsWithinRow_of_ite (exec_gejAddGe rd ra rb s)
  | scInv rd ra => exact faultsWithinRow_of_ite (invertTo_eq s rd ra ▸ exec_scInv rd ra s)
  | scInvVar rd ra => exact faultsWithinRow_of_ite (invertTo_eq s rd ra ▸ exec_scInvVar rd ra s)
  | wnaf rd ra w len =>
    by_cases hparam : w.val < 2 ∨ 256 < len.val
    · exact faultsWithinRow_of_error (exec_wnaf_badParameters hparam)
    · rcases exec_wnaf_cases (w := w) (len := len) (by omega) (by omega) s rd ra with ⟨u, h⟩ | h
      · exact faultsWithinRow_of_ok h
      · exact faultsWithinRow_of_error h
  | genBlind cx =>
    cases hprec : s.gctx[cx].prec with
    | none => exact faultsWithinRow_of_error ((exec_genBlind s cx).trans (blindWith_unbuilt hprec))
    | some table =>
      rcases blindAccepts_or_rejects (blindOutput s cx) Config.retryCap with ⟨t1, t2, h⟩ | h
      · exact faultsWithinRow_of_ok ((exec_genBlind s cx).trans (blindWith_of_accepts hprec h))
      · obtain ⟨drawn, hends⟩ := blindWith_of_rejects hprec h
        exact faultsWithinRow_of_error ((exec_genBlind s cx).trans hends)
  | genMul rd ra cx =>
    cases hprec : s.gctx[cx].prec with
    | none => exact faultsWithinRow_of_error (exec_genMul_unbuilt rd ra hprec)
    | some table => exact faultsWithinRow_of_ok (exec_genMul_built rd ra hprec)
  | genSel rd ra j cx =>
    cases hprec : s.gctx[cx].prec with
    | none => exact faultsWithinRow_of_error (exec_genSel_unbuilt rd ra j hprec)
    | some table => exact faultsWithinRow_of_ok (exec_genSel_built rd ra j hprec)
  | genRd rd e j cx =>
    cases hprec : s.gctx[cx].prec with
    | none => exact faultsWithinRow_of_error (exec_genRd_unbuilt rd e j hprec)
    | some table => exact faultsWithinRow_of_ok (exec_genRd_built rd e j hprec)
  | pregLookup rd simm16 cx =>
    cases hpre : s.mctx[cx].preG with
    | none => exact faultsWithinRow_of_error (exec_pregLookup_unbuilt rd simm16 hpre)
    | some table =>
      rcases exec_pregLookup_cases hpre rd simm16 with ⟨tr, u, h⟩ | h
      · exact faultsWithinRow_of_ok h
      · exact faultsWithinRow_of_error h
  | dualMul rd ra rb rc cx =>
    cases hpre : s.mctx[cx].preG with
    | none => exact faultsWithinRow_of_error (exec_dualMul_unbuilt rd ra rb rc hpre)
    | some table =>
      by_cases hbad : NeedsMultiples (s.readA ra) (s.readS rb) ∧ HasBadMultiple (s.readA ra)
      · exact faultsWithinRow_of_error (exec_dualMul_of_bad hpre rd hbad.1 hbad.2)
      · obtain ⟨wa, wg, reads, -, -, hexec⟩ := exec_dualMul_of_not_bad (rc := rc) hpre rd hbad
        exact faultsWithinRow_of_ok hexec

/-- The fault a legal command's leak names is of its row. -/
theorem exec_leakFault_mem_mayRaise {i : Instr} {s t : State} {f : Fault} (hi : i.WellFormed)
    (h : exec i s = .next t) (hf : t.leakFault = some f) : f.code ∈ mayRaise i := by
  rcases exec_faultsWithinRow hi s with ⟨tr, u, hexec⟩ | ⟨tr, f', hexec, hmem⟩
  · exact absurd ((leakFault_of_ok h hexec).symm.trans hf) (Option.some_ne_none f).symm
  · obtain rfl : f' = f := Option.some.inj ((leakFault_of_error h hexec).symm.trans hf)
    exact hmem

/-- Settles O12: outside the fault state `STATUS.FAULT` is set by a fault entry only, whose code is of the row. -/
theorem faultsByCommand : Obligations.FaultsByCommand := by
  unfold Obligations.FaultsByCommand
  intro i s t hi hs h ht
  cases hf : t.leakFault with
  | none =>
    obtain ⟨hkeep, -⟩ := exec_noFault h hf
    exact absurd (hs.symm.trans (hkeep.symm.trans ht)) (by decide)
  | some f =>
    have hinfo : t.faultInfo.code = f.code := congrArg (·.faultInfo.code) (exec_faultEntry h hf)
    exact hinfo ▸ exec_leakFault_mem_mayRaise hi h hf

/-! ### Unbuilt slots (60_exceptions.md R334) -/

theorem GenCtx.prec_of_not_built {c : GenCtx} (h : c.built = false) : c.prec = none := by
  simpa [GenCtx.built] using h

theorem MulCtx.preG_of_not_built {c : MulCtx} (h : c.built = false) : c.preG = none := by
  simpa [MulCtx.built] using h

/-- A command with an empty row of R345 raises no fault. -/
theorem exec_noFault_of_mayRaise_nil {i : Instr} {s t : State} (hi : i.WellFormed) (hrow : mayRaise i = [])
    (h : exec i s = .next t) : t.fault = s.fault ∧ t.leakFault = none := by
  have hnone : t.leakFault = none := Option.eq_none_iff_forall_ne_some.2 fun f hf => by
    have hmem := exec_leakFault_mem_mayRaise hi h hf
    rw [hrow] at hmem
    exact List.not_mem_nil hmem
  exact ⟨(exec_noFault h hnone).1, hnone⟩

/-- Settles O13: each command that reads a context tests its table first, and the rows of the lifecycle are empty. -/
theorem unbuiltSlotFaults : Obligations.UnbuiltSlotFaults := by
  unfold Obligations.UnbuiltSlotFaults
  refine ⟨fun s cx hbuilt => ?_, fun s cx hbuilt => ?_, fun s t cx cs h => ?_, fun s t cx cs h => ?_⟩
  · have hprec := GenCtx.prec_of_not_built hbuilt
    exact ⟨raisesFault_of_error ((exec_genBlind s cx).trans (blindWith_unbuilt hprec)),
      fun rd ra => raisesFault_of_error (exec_genMul_unbuilt rd ra hprec),
      fun rd ra j => raisesFault_of_error (exec_genSel_unbuilt rd ra j hprec),
      fun rd e j => raisesFault_of_error (exec_genRd_unbuilt rd e j hprec)⟩
  · have hpre := MulCtx.preG_of_not_built hbuilt
    exact ⟨fun rd d => raisesFault_of_error (exec_pregLookup_unbuilt rd d hpre),
      fun rd ra rb rc => raisesFault_of_error (exec_dualMul_unbuilt rd ra rb rc hpre)⟩
  · rcases h with h | h | h <;> exact exec_noFault_of_mayRaise_nil rfl rfl h
  · rcases h with h | h | h <;> exact exec_noFault_of_mayRaise_nil rfl rfl h

/-! ### The parameters of `WNAF` (60_exceptions.md R335) -/

/-- Settles O45: the parameter test comes first, and past it F_WNAF_RANGE is the only fault. -/
theorem wnafParameters : Obligations.WnafParameters := by
  unfold Obligations.WnafParameters
  refine fun s rd ra w len => ⟨fun hparam => raisesFault_of_error (exec_wnaf_badParameters hparam),
    fun hw hlen t h => ?_⟩
  rcases exec_wnaf_cases hw hlen s rd ra with ⟨u, hexec⟩ | hexec
  · simp [leakFault_of_ok h hexec]
  · simp [leakFault_of_error h hexec]

end Sys2Proof.Machine
end

section
/-! PROOFS. The fault state after reset and the way into it, and the commands that leak nothing of their operands
(70_reset_and_hazards.md R373, R387). -/

namespace Sys2Proof.Machine

/-! ### Entering the fault state (60_exceptions.md R340, 70_reset_and_hazards.md R373) -/

@[simp] theorem State.resetOf_fault (static : Bool) : (State.resetOf static).fault = false := rfl

theorem ctrlWrite_fault {w : Word} {s : State} (h : s.fault = false) : (ctrlWrite w s).fault = false := by
  unfold ctrlWrite
  split
  · rw [State.resetBlock_fault, State.resetOf_fault]
  · exact h

/-- A `CMD` write that enters the fault state is a fault entry: of F_ILLEGAL, or of the fault the command raised. -/
theorem cmdWrite_entersFault {w : Word} {s t : State} (h : cmdWrite w s = .next t) (hs : s.fault = false)
    (ht : t.fault = true) :
    ∃ f : Fault, t.arch = { s with fault := true, faultInfo := ⟨f.code, w.extractLsb' 0 8⟩ }.arch := by
  rcases cmdWrite_cases w s with ⟨hf, -⟩ | ⟨-, -, hw⟩ | ⟨-, i, hi, hw⟩
  · exact absurd (hs.symm.trans hf) (by decide)
  · exact ⟨.illegal, Host.Outcome.next.inj (hw.symm.trans h) ▸ rfl⟩
  · have hexec : exec i s = .next t := hw.symm.trans h
    cases hleak : t.leakFault with
    | none =>
      obtain ⟨hkeep, -⟩ := exec_noFault hexec hleak
      exact absurd (hs.symm.trans (hkeep.symm.trans ht)) (by decide)
    | some f =>
      obtain ⟨-, rfl⟩ := decode_eq_ok_iff.1 hi
      exact ⟨f, exec_faultEntry hexec hleak⟩

/-- A step outside the fault state stays outside it, or takes a `CMD` write. -/
theorem step_noFault_or_cmdWrite {s t : State} (hs : s.fault = false) (h : step s = .next t) :
    t.fault = false ∨ ∃ w rest, s.host = .write 32 0 w :: rest ∧
      cmdWrite w { s with host := rest, response := .accepted } = .next t := by
  rcases step_cases h with ⟨-, rfl⟩ | ⟨a, rest, hhost, hread | hwrite | ⟨-, rfl⟩⟩
  · exact .inl hs
  · obtain ⟨width, offset, -, ⟨-, rfl⟩ | ⟨r, -, rfl⟩⟩ := hread <;> exact .inl hs
  · obtain ⟨width, offset, w, rfl, ⟨-, rfl⟩ | ⟨htarget, hcmd⟩ | ⟨-, rfl⟩ | ⟨r, -, -, -, rfl⟩⟩ := hwrite
    · exact .inl hs
    · obtain ⟨rfl, rfl⟩ := (target_eq_some_iff ..).1 htarget
      exact .inr ⟨w, rest, hhost, hcmd⟩
    · exact .inl (ctrlWrite_fault hs)
    · rw [if_neg (Bool.eq_false_iff.1 hs)]
      exact .inl ((storeReg_sameInternal ..).fault.trans hs)
  · exact .inl (State.resetOf_fault s.staticPrecomp)

/-- Settles O10: a step enters the fault state by a `CMD` write only, which does so by the fault entry only. -/
theorem faultEnteredOnlyByCommands : Obligations.FaultEnteredOnlyByCommands := by
  unfold Obligations.FaultEnteredOnlyByCommands
  refine ⟨State.resetOf_fault, fun s t hs h ht => ?_⟩
  rcases step_noFault_or_cmdWrite hs h with hkeep | ⟨w, rest, hhost, hcmd⟩
  · exact absurd (hkeep.symm.trans ht) (by decide)
  · obtain ⟨f, harch⟩ := cmdWrite_entersFault hcmd hs ht
    obtain ⟨hlow, hhigh⟩ := f.code_range
    exact ⟨w, rest, f.code, hhost, hlow, hhigh, harch⟩

/-! ### Constant time (00_scope.md R17, 70_reset_and_hazards.md R387) -/

/-- Settles O59: five of the commands leave one and the same trace from every state, and the three that read a context
read all of their entries or, with a fault, none. -/
theorem constantTimeCommands : Obligations.ConstantTimeCommands := by
  unfold Obligations.ConstantTimeCommands
  refine ⟨fun rd ra => ?geSetGej, fun rd ra rb => ?gejAddGe, fun rd ra => ?stCmov, fun rd ra rb => ?stCsel,
    fun rd ra => ?scInv, genMul_constantTime, genSel_constantTime,
    fun cx s s' t t' => leak_congr_of_endsReading rfl (genBlind_endsReading cx)⟩
  case geSetGej => exact constantTime_of_finish rfl fun s => ⟨_, exec_geSetGej rd ra s⟩
  case gejAddGe => exact constantTime_of_finish rfl fun s => ⟨_, exec_gejAddGe rd ra rb s⟩
  case stCmov => exact constantTime_of_finish rfl fun s => ⟨_, rfl⟩
  case stCsel => exact constantTime_of_finish rfl fun s => ⟨_, rfl⟩
  case scInv => exact constantTime_of_finish rfl fun s => ⟨_, exec_scInv rd ra s⟩

end Sys2Proof.Machine
end
